-- ==== Sys2Proof/Word.lean ====
section
/-! DEFINITION. The value types of the PhobosLT signal core (spec/00_scope.md R10, R11): every width the spec
names, as a bit vector. No arithmetic stands here: signed and exact arithmetic is said where a rule uses it. -/

namespace Sys2Proof

/-- A command word `CMD64` (R80). -/
abbrev Cmd := BitVec 64

/-- A frequency in MHz, the `F16` operand (R81, R111). -/
abbrev Mhz := BitVec 16

/-- A time or a duration in milliseconds, `u32` (R12, R81). -/
abbrev Ms := BitVec 32

/-- A Q16.16 register: `s32` for the estimate, `u32` for the covariance and the noise registers (R30 to R33). -/
abbrev Q16 := BitVec 32

/-- An RSSI value, `u8` (R38, R42, R43, R60). -/
abbrev Rssi := BitVec 8

/-- One sample of the RSSI input, `ADC_BITS` = 12 bits (R8, R27). -/
abbrev Adc := BitVec 12

/-- The 4-bit address of a bus frame (R115). -/
abbrev BusAddr := BitVec 4

/-- The 20-bit datum of a bus frame (R115). -/
abbrev BusData := BitVec 20

end Sys2Proof
end

