-- ==== Sys2Proof/Syntax.lean ====
section
/-! DEFINITION. The commands of the block: one constructor for each row of spec/opcode_table.json (R83). An operand has
exactly the bits its row leaves free (R80 to R82), so a fixed-zero bit cannot be written down. -/

namespace Sys2Proof

/-- A command of the block (R83), with its operands (R81). -/
inductive Instr where
  /-- `RX_INIT` (0x10, R121). -/
  | rxInit
  /-- `RX_SETFREQ freq, now` (0x11, R122). -/
  | rxSetfreq (freq : Mhz) (now : Ms)
  /-- `RX_HFC freq, now` (0x12, R125). -/
  | rxHfc (freq : Mhz) (now : Ms)
  /-- `RX_READRSSI` (0x13, R135). -/
  | rxReadrssi
  /-- `KF_FILTER m` (0x20, R161). -/
  | kfFilter (m : Rssi)
  /-- `KF_SETMNOISE value` (0x21, R170): the operand is `V32[27:0]`. -/
  | kfSetmnoise (value : BitVec 28)
  /-- `KF_SETPNOISE value` (0x22, R171): the operand is `V32[27:0]`. -/
  | kfSetpnoise (value : BitVec 28)
  /-- `LD_START` (0x30, R200). -/
  | ldStart
  /-- `LD_STOP` (0x31, R201). -/
  | ldStop
  /-- `LD_UPDATE now` (0x32, R203). -/
  | ldUpdate (now : Ms)
  /-- `LD_GETRSSI` (0x33, R205). -/
  | ldGetrssi
  /-- `LD_GETLAP` (0x34, R206). -/
  | ldGetlap
  /-- `LD_ISLAPAVAIL` (0x35, R207). -/
  | ldIslapavail
  /-- `CFG_MINLAP ms` (0x40, R230). -/
  | cfgMinlap (ms : Ms)
  /-- `CFG_ENTER level` (0x41, R231). -/
  | cfgEnter (level : Rssi)
  /-- `CFG_EXIT level` (0x42, R232). -/
  | cfgExit (level : Rssi)
  /-- `CFG_FREQ freq` (0x43, R233). -/
  | cfgFreq (freq : Mhz)
  deriving DecidableEq, Repr

end Sys2Proof
end

