-- ==== Sys2Proof/Decode.lean ====
section
/-! DEFINITION. The command encoding (spec/30_encoding.md): the fields of `CMD64` (R80), the opcode map with each row's
fixed-zero bits (R82, R83), the decoder (R86, R87), and the encoder written from the same tables (R92). The third check
of rule R86, the operand range of rule R88, is made by the command's meaning (log 1). -/

namespace Sys2Proof

/-- Why a word is no command (R86): its opcode is unassigned, or a fixed-zero bit of its row is 1. -/
inductive DecodeError where
  | illegalOpcode
  | illegalField
  deriving DecidableEq, Repr

/-- `OPC` = bits 63:56 (R80). -/
def opcField (w : Cmd) : BitVec 8 := w.extractLsb' 56 8
/-- `RSV` = bits 55:48 (R80). -/
def rsvField (w : Cmd) : BitVec 8 := w.extractLsb' 48 8
/-- `F16` = bits 47:32 (R80). -/
def f16Field (w : Cmd) : BitVec 16 := w.extractLsb' 32 16
/-- `V32` = bits 31:0 (R80). -/
def v32Field (w : Cmd) : BitVec 32 := w.extractLsb' 0 32

/-- A row with no operand: `RSV`, `F16` and `V32` are fixed-zero (R82). -/
def noOperand (i : Instr) (w : Cmd) : Option Instr :=
  if rsvField w = 0 ∧ f16Field w = 0 ∧ v32Field w = 0 then some i else none

/-- A row with a frequency and a time: only `RSV` is fixed-zero (R82). -/
def freqAndTime (mk : Mhz → Ms → Instr) (w : Cmd) : Option Instr :=
  if rsvField w = 0 then some (mk (f16Field w) (v32Field w)) else none

/-- A row with a frequency alone: `RSV` and `V32` are fixed-zero (R82). -/
def freqOnly (mk : Mhz → Instr) (w : Cmd) : Option Instr :=
  if rsvField w = 0 ∧ v32Field w = 0 then some (mk (f16Field w)) else none

/-- A row whose operand is the low `n` bits of `V32`: `RSV`, `F16` and the rest of `V32` are fixed-zero (R82). -/
def lowBits (n : Nat) (mk : BitVec n → Instr) (w : Cmd) : Option Instr :=
  if rsvField w = 0 ∧ f16Field w = 0 ∧ (v32Field w).extractLsb' n (32 - n) = 0 then
    some (mk ((v32Field w).extractLsb' 0 n)) else none

/-- The opcode map (R83): each opcode with the operand form of its row. -/
def opcodeMap : List (BitVec 8 × (Cmd → Option Instr)) :=
  [ (0x10, noOperand .rxInit),
    (0x11, freqAndTime .rxSetfreq),
    (0x12, freqAndTime .rxHfc),
    (0x13, noOperand .rxReadrssi),
    (0x20, lowBits 8 .kfFilter),
    (0x21, lowBits 28 .kfSetmnoise),
    (0x22, lowBits 28 .kfSetpnoise),
    (0x30, noOperand .ldStart),
    (0x31, noOperand .ldStop),
    (0x32, lowBits 32 .ldUpdate),
    (0x33, noOperand .ldGetrssi),
    (0x34, noOperand .ldGetlap),
    (0x35, noOperand .ldIslapavail),
    (0x40, lowBits 32 .cfgMinlap),
    (0x41, lowBits 8 .cfgEnter),
    (0x42, lowBits 8 .cfgExit),
    (0x43, freqOnly .cfgFreq) ]

/-- Decode a command word (R86): the opcode is checked first, then the fixed-zero bits. -/
def decode (w : Cmd) : Except DecodeError Instr :=
  match opcodeMap.lookup (opcField w) with
  | none => .error .illegalOpcode
  | some row =>
    match row w with
    | none => .error .illegalField
    | some i => .ok i

/-- Lay the fields of a command word out, with `RSV` = 0 (R80, R82). -/
def pack (opc : BitVec 8) (f16 : BitVec 16) (v32 : BitVec 32) : Cmd := opc ++ 0#8 ++ f16 ++ v32

/-- The word of a command (R83, R92). -/
def encode : Instr → Cmd
  | .rxInit => pack 0x10 0 0
  | .rxSetfreq freq now => pack 0x11 freq now
  | .rxHfc freq now => pack 0x12 freq now
  | .rxReadrssi => pack 0x13 0 0
  | .kfFilter m => pack 0x20 0 (m.setWidth 32)
  | .kfSetmnoise v => pack 0x21 0 (v.setWidth 32)
  | .kfSetpnoise v => pack 0x22 0 (v.setWidth 32)
  | .ldStart => pack 0x30 0 0
  | .ldStop => pack 0x31 0 0
  | .ldUpdate now => pack 0x32 0 now
  | .ldGetrssi => pack 0x33 0 0
  | .ldGetlap => pack 0x34 0 0
  | .ldIslapavail => pack 0x35 0 0
  | .cfgMinlap ms => pack 0x40 0 ms
  | .cfgEnter l => pack 0x41 0 (l.setWidth 32)
  | .cfgExit l => pack 0x42 0 (l.setWidth 32)
  | .cfgFreq freq => pack 0x43 freq 0

/-- The word the host numbers as spec/opcode_table.json does: one 64-bit word, every bit above `nbits` zero. -/
def tableWord (nbits w : Nat) : Cmd := BitVec.ofNat 64 (w % 2 ^ nbits)

/-- The command the decoder reads from such a word, none where it refuses. -/
def decodeTableWord (nbits w : Nat) : Option Instr :=
  match decode (tableWord nbits w) with
  | .ok i => some i
  | .error _ => none

end Sys2Proof
end

