-- ==== Sys2Proof/Config.lean ====
section
/-! DEFINITION. The parameters of the block (spec/00_scope.md R8) and the free values of the environment.
A parameter the spec gives a value has that value; a parameter the spec marks OPEN, and every value the spec
leaves free, is an opaque constant with no body, so that nothing can be proved about which value it is. -/

namespace Sys2Proof.Config

/-- `N_RSSI`: entries of the RSSI ring (R8, R60). -/
def nRssi : Nat := 100
/-- `M_LAP`: entries of the lap ring (R8, R60). -/
def mLap : Nat := 50
/-- `BUS_QUIET_MS` (R8, R123). -/
def busQuietMs : Nat := 30
/-- `SETTLE_MS` (R8, R124). -/
def settleMs : Nat := 35
/-- `FREQ_OFFSET` of the encoder (R8, R112). -/
def freqOffset : Nat := 479
/-- `FREQ_MIN` (R8, R111). -/
def freqMin : Nat := 479
/-- `FREQ_MAX` (R8, R111). -/
def freqMax : Nat := 33246
/-- `POWER_DOWN_FREQ`, the power-down sentinel (R8; the spec's default, from general knowledge: log 15). -/
def powerDownFreq : Mhz := 1111
/-- `TUNE_ADDR`, the tuning register's address (R8; log 15). -/
def tuneAddr : BusAddr := 0x1
/-- `SEL_ACTIVE`, the asserted level of the select line: active low (R8; log 15). -/
def selActive : Bool := false
/-- `WAKE_SEQ`, the module's reset/wake frames (R8, R114; log 15). -/
def wakeSeq : List (BusAddr × BusData) := [(0xF, 0x00000)]
/-- `PD_SEQ`, the module's power-down frames (R8, R114; log 15). -/
def pdSeq : List (BusAddr × BusData) := [(0xA, 0xFFFFF)]
/-- `RSSI_CLAMP` (R8, R134; log 15). -/
def rssiClamp : Nat := 2047
/-- `RSSI_SHIFT` (R8, R134; log 15). -/
def rssiShift : Nat := 3
/-- `2^FRAC`, the value 1.0 of the filter's Q16.16 numbers (R8, R160). -/
def one : Nat := 65536
/-- `NOISE_LIMIT`, the exclusive bound on a noise register (R8, R32, R33). -/
def noiseLimit : Nat := 2 ^ 28
/-- The bit cells of a frame (R115). -/
def frameCells : Nat := 25
/-- The `T_BIT` waits of one frame, three for each cell (R117, R119). -/
def frameWaits : Nat := 75

/-- `VERIFY_READBACK`: OPEN (R8, D14), so free. `State.reset` copies it into the parameter field the meanings read. -/
opaque verifyReadback : Bool

/-- How far `T_BIT` lies above its least admitted value: OPEN (R8, D11), so free. -/
opaque tBitExcess : Fin 900

/-- `T_BIT` in microseconds, 100 to 999 (R8, R117). No functional rule depends on it (R281). -/
def tBit : Nat := 100 + tBitExcess.val

/-- The n-th ADC sample the environment drives when it has presented none (R134, D41): a free value. -/
opaque freeAdc : Nat → Adc

/-- What the module drives in the n-th read frame when the environment has presented nothing (R118, D41): a free value. -/
opaque freeReadBack : Nat → BusData

/-- The encoder's result for a frequency outside 479..33246, for which the spec states none (R112, N6): a free value.
No reachable state uses it (R48 item 4; log 14). -/
opaque freeEncode : Mhz → BitVec 16

end Sys2Proof.Config
end

