-- ==== Sys2Proof/Machine/State.lean ====
section
/-! DEFINITION. The state of the block (spec/10_state.md, 20_memory.md, 70_reset_and_hazards.md R261): the registers of
each unit, the pins and the frame sequencer, the two ring RAMs, the command each port has in flight, the FAULTED state,
and, as the model's own fields, the environment's inputs and the ordered outputs. Everything is plain data. -/

namespace Sys2Proof.Machine

/-- A memory of `w`-bit entries: a list of (index, entry) pairs in one canonical form (`Memory.wf`). An index that is not
listed reads 0, the reset content of both RAMs (R64, R261). `Memory 8` is a list of `Host.Cell`. -/
abbrev Memory (w : Nat) := List (Nat × BitVec w)

/-- Indices rise strictly from `lo` on, lie below `n`, and no listed entry is 0. -/
def Memory.wfFrom {w : Nat} (n : Nat) : Nat → Memory w → Bool
  | _, [] => true
  | lo, (i, v) :: rest => lo ≤ i && i < n && v != 0 && Memory.wfFrom n (i + 1) rest

/-- The canonical form of a RAM of `n` entries: equal contents are equal lists. -/
def Memory.wf {w : Nat} (n : Nat) (m : Memory w) : Bool := Memory.wfFrom n 0 m

/-- The two command ports (R7, R254). -/
inductive Port where
  | p0
  | p1
  deriving DecidableEq, Repr

/-- Why the host's run of the block stops. -/
inductive Fault where
  /-- The filter's gain denominator was 0 in a command of port `p` (R164, R244). `KF_FILTER` and `LD_UPDATE` enter the
  state FAULTED by it (a next state); `step` answers it only when the block stands in FAULTED and no reset is presented,
  so that nothing can ever change (log 8). Safe: the block makes no progress there. -/
  | filterDivZero (p : Port)
  deriving DecidableEq, Repr

/-- Why the model gives an instruction no meaning. -/
inductive Refusal where
  /-- Answered by `exec` for an instruction whose meaning is not written: none is left. Safe: the run stops. -/
  | notModelled (mnemonic : String)
  deriving DecidableEq, Repr

/-- The RXD registers `CUR_FREQ`, `RETUNED`, `RETUNE_TS` and `PWR_DOWN` (R22 to R25). -/
structure Rxd where
  curFreq : Mhz
  retuned : Bool
  retuneTs : Ms
  pwrDown : Bool
  deriving DecidableEq, Repr

/-- The pins `SEL`, `CLK`, `DATA` and `DATA_OE` (R26). `data` is the level the block drives (log 12). -/
structure Pins where
  sel : Bool
  clk : Bool
  data : Bool
  dataOe : Bool
  deriving DecidableEq, Repr

/-- The phases of a bit cell: data setup, clock high, clock low (R117). -/
inductive Phase where
  | setup
  | high
  | low
  deriving DecidableEq, Repr

/-- A position of the frame sequencer, `SEQ = (frame, bit, phase)` (R21). -/
structure SeqPos where
  frame : Nat
  bit : Fin 25
  phase : Phase
  deriving DecidableEq, Repr

/-- The filter registers `KF_INIT`, `KF_EST` (s32), `KF_COV`, `KF_MNOISE` and `KF_PNOISE` (R29 to R33). -/
structure Kf where
  init : Bool
  est : Q16
  cov : Q16
  mnoise : Q16
  pnoise : Q16
  deriving DecidableEq, Repr

/-- `LD_STATE`: Stopped, Waiting, Running (R34). The encoding 3 cannot be written down. -/
inductive LdState where
  | stopped
  | waiting
  | running
  deriving DecidableEq, Repr

/-- The detector registers and the two RAMs (R34 to R40, R60): `LD_STATE`, `RSSI_CUR`, `LAP_CUR`, `LAP_AVAIL`, `PEAK`,
`PEAK_TS`, `LAP_START`, `RSSIRAM` (100 entries of 8 bits) and `LAPRAM` (50 entries of 32 bits). -/
structure Ld where
  state : LdState
  rssiCur : Fin 100
  lapCur : Fin 50
  lapAvail : Bool
  peak : Rssi
  peakTs : Ms
  lapStart : Ms
  rssiRam : Memory 8
  lapRam : Memory 32
  deriving DecidableEq, Repr

/-- The configuration registers `CFG_MINLAP`, `CFG_ENTER`, `CFG_EXIT` and `CFG_FREQ` (R41 to R44). -/
structure Cfg where
  minlap : Ms
  enter : Rssi
  exit : Rssi
  freq : Mhz
  deriving DecidableEq, Repr

/-- The atomic segments of the bus commands (R71). -/
inductive Segment where
  /-- S0 of `RX_INIT`: drive the idle levels (R121). -/
  | idle
  /-- S2: write `PWR_DOWN` (R120, R121). -/
  | power (down : Bool)
  /-- S1 of `SetFreqCore`: write `CUR_FREQ` and choose the path (R120). -/
  | tune (freq : Mhz) (now : Ms)
  /-- S3: write `RETUNED` and `RETUNE_TS` (R120). -/
  | arm (now : Ms)
  /-- H1 of `RX_HFC`: the bus-quiet test, then S1 (R125). -/
  | change (freq : Mhz) (now : Ms)
  /-- H2 of `RX_HFC`: the settle test (R125). -/
  | settle (now : Ms)
  /-- H3 of `RX_HFC`: the comparison of the read-back (R125, R126). -/
  | compare
  deriving DecidableEq, Repr

/-- A frame to be driven: a write frame (R116) or a read frame (R118). -/
inductive FrameReq where
  | write (a : BusAddr) (d : BusData)
  | read (a : BusAddr)
  deriving DecidableEq, Repr

/-- The actions of a bus command: segments separated by frames (R71). -/
inductive BusOp where
  | seg (g : Segment)
  | frame (r : FrameReq)
  deriving DecidableEq, Repr

/-- A bus command in flight (R72): what is left of it, how many frames it has sent, its report word so far, and the bits
read back in its current or last frame. -/
structure Flight where
  todo : List BusOp
  frames : Nat
  rep : BitVec 32
  rb : BusData
  deriving DecidableEq, Repr

/-- What a port is doing between atomic steps (R72, R73): nothing, waiting with a bus command for the bus, or in the
middle of a bus command. -/
inductive Busy where
  | idle
  | waiting (i : Instr)
  | running (f : Flight)
  deriving DecidableEq, Repr

/-- A port: the command words the host has presented and the port has not accepted, and its command in flight (R7, R72). -/
structure PortState where
  queue : List Cmd
  busy : Busy
  deriving DecidableEq, Repr

/-- The statuses of a response (R84, R240). -/
inductive Status where
  | ok
  | illegalOpcode
  | illegalField
  | illegalOperand
  deriving DecidableEq, Repr

/-- A response, `STATUS` and `VALUE` (R84). -/
structure Rsp where
  status : Status
  value : BitVec 32
  deriving DecidableEq, Repr

/-- A frame on the 3-wire bus, as an event (R6, R116, R118); a read frame with the bits the module drove. -/
inductive BusFrame where
  | write (a : BusAddr) (d : BusData)
  | read (a : BusAddr) (r : BusData)
  deriving DecidableEq, Repr

/-- A notifier event (R250). -/
inductive Event where
  | start
  | stop
  | lapStart
  deriving DecidableEq, Repr

/-- What the world sees of the block (R255): responses, bus frames and notifier events. -/
inductive Obs where
  | rsp (p : Port) (r : Rsp)
  | frame (f : BusFrame)
  | notify (e : Event)
  deriving DecidableEq, Repr

/-- Which atomic step comes next (R70, R71, R260): port `p` runs a command whole, port `p` takes one atomic action (the
next segment or pin phase of a bus command), or `RST` is asserted (log 6). -/
inductive Turn where
  | whole (p : Port)
  | atom (p : Port)
  | reset
  deriving DecidableEq, Repr

/-- The environment (R7), the model's own field: the turns it has chosen, the ADC samples and read-back values it has
presented, how many of each have been drawn, and the parameter `VERIFY_READBACK`, which no command changes (R47). -/
structure Env where
  sched : List Turn
  adcIn : List Adc
  readIn : List BusData
  adcDraws : Nat
  readDraws : Nat
  verifyReadback : Bool
  deriving DecidableEq, Repr

/-- The state of the block. `cur` (the port whose command executes), `env`, `trace` (the outputs in order) and `busWaits`
(the `T_BIT` waits the sequencer has spent) are the model's own fields; the rest is the spec's. -/
structure State where
  rx : Rxd
  pins : Pins
  seq : Option SeqPos
  kf : Kf
  ld : Ld
  cfg : Cfg
  faulted : Option Fault
  p0 : PortState
  p1 : PortState
  cur : Port
  env : Env
  trace : List Obs
  busWaits : Nat
  deriving DecidableEq, Repr

/-- The idle levels of the pins (R26). -/
def Pins.idleLevels : Pins := { sel := !Config.selActive, clk := false, data := false, dataOe := true }

/-- The block right after reset (R260, R261): every register at the value the table of R261 gives, the pins idle, `SEQ`
idle, both RAMs zero, no command in flight. The model's own fields: nothing presented, nothing drawn, nothing output, and
`VERIFY_READBACK` free (log 2, log 19). -/
def State.reset : State where
  rx := { curFreq := 0, retuned := false, retuneTs := 0, pwrDown := false }
  pins := Pins.idleLevels
  seq := none
  kf := { init := false, est := 0, cov := 0, mnoise := 0, pnoise := 0 }
  ld := { state := .stopped, rssiCur := 0, lapCur := 0, lapAvail := false, peak := 0, peakTs := 0, lapStart := 0,
          rssiRam := [], lapRam := [] }
  cfg := { minlap := 0, enter := 0, exit := 0, freq := 0 }
  faulted := none
  p0 := { queue := [], busy := .idle }
  p1 := { queue := [], busy := .idle }
  cur := .p0
  env := { sched := [], adcIn := [], readIn := [], adcDraws := 0, readDraws := 0, verifyReadback := Config.verifyReadback }
  trace := []
  busWaits := 0

end Sys2Proof.Machine
end

