-- ==== Sys2Proof/Machine/Flags.lean ====
section
/-! DEFINITION. The tests of the block, all on `elapsed` and unsigned comparisons: the time guards (R12, R123, R124,
R203), the peak and capture tests (R180, R181), and the bits of the `RX_HFC` report word (R127). -/

namespace Sys2Proof.Machine

/-- `elapsed(now, ts) = (now - ts) mod 2^32` (R12). -/
def elapsed (now ts : Ms) : Ms := now - ts

/-- `QuietOK(now)`: at least 30 ms since the last tuning write (R123). -/
def quietOk (now : Ms) (r : Rxd) : Bool := Config.busQuietMs ≤ (elapsed now r.retuneTs).toNat

/-- `SettleOK(now)`: at least 35 ms since the last tuning write (R124). -/
def settleOk (now : Ms) (r : Rxd) : Bool := Config.settleMs ≤ (elapsed now r.retuneTs).toNat

/-- H1's guard: the request differs from the tuned frequency and the bus has been quiet (R125). -/
def retuneDue (f : Mhz) (now : Ms) (r : Rxd) : Bool := f != r.curFreq && quietOk now r

/-- H2's guard: `RETUNED` is set and the settle interval is over (R125). -/
def settleDue (now : Ms) (r : Rxd) : Bool := r.retuned && settleOk now r

/-- The minimum-lap gate: the elapsed time exceeds `CFG_MINLAP` (R186, R203). -/
def gateOpen (now : Ms) (c : Cfg) (l : Ld) : Bool := c.minlap.toNat < (elapsed now l.lapStart).toNat

/-- The peak test: a sample at or above the enter threshold and above the tracked peak (R180). -/
def raisesPeak (smp : Rssi) (c : Cfg) (l : Ld) : Bool := c.enter.toNat ≤ smp.toNat && l.peak.toNat < smp.toNat

/-- The capture test: below both the tracked peak and the exit threshold (R181). -/
def captured (smp : Rssi) (c : Cfg) (l : Ld) : Bool := smp.toNat < l.peak.toNat && smp.toNat < c.exit.toNat

/-- Bit 0 of the report word, RETUNE (R127). -/
def repRetune : BitVec 32 := 0x1
/-- Bit 1, SETTLED (R127). -/
def repSettled : BitVec 32 := 0x2
/-- Bit 2, VERIFIED, with READBACK in bits 23:4 (R127). -/
def repVerified (rb : BusData) : BitVec 32 := 0x4 ||| rb.setWidth 32 <<< 4
/-- Bit 3, MISMATCH (R126, R127). -/
def repMismatch (rb expected : BusData) : BitVec 32 := if rb = expected then 0 else 0x8

end Sys2Proof.Machine
end

