-- ==== Sys2Proof/Machine/Operands.lean ====
section
/-! DEFINITION. What the block computes from its operands and inputs: the admitted frequencies (R111), the register
encoder (R112), the noise operand (R81), the RSSI scaling (R134) and the rounding of the estimate (R162). -/

namespace Sys2Proof.Machine

/-- The tuning range 479..33246 (R111). -/
def inTuningRange (f : Mhz) : Bool := Config.freqMin ≤ f.toNat && f.toNat ≤ Config.freqMax

/-- The admitted frequencies: the sentinel and the tuning range (R88, R111). -/
def admitted (f : Mhz) : Bool := f == Config.powerDownFreq || inTuningRange f

/-- The synthesizer register value of a frequency (R112): `reg[15:7] = N`, `reg[4:0] = A`. Outside the tuning range the
spec gives no value, and the result is free (log 14). -/
def encodeFreq (f : Mhz) : BitVec 16 :=
  if inTuningRange f then
    let tf := (f.toNat - Config.freqOffset) / 2
    BitVec.ofNat 16 (tf / 32) <<< 7 ||| BitVec.ofNat 16 (tf % 32)
  else Config.freeEncode f

/-- The datum of a tuning frame and the comparand of a read-back: the register value with four padding zeros (R114, R126). -/
def tuneData (f : Mhz) : BusData := (encodeFreq f).setWidth 20

/-- The noise operand as a `u32` register value (R81, R170, R171). -/
def noiseValue (v : BitVec 28) : Q16 := v.setWidth 32

/-- An ADC sample, clamped and shifted into 8 bits (R134). -/
def scaleAdc (a : Adc) : Rssi := BitVec.ofNat 8 (min a.toNat Config.rssiClamp / 2 ^ Config.rssiShift)

/-- `Round8`: the nearest integer of a Q16.16 estimate, ties rounded up (R162). -/
def round8 (e : Q16) : Rssi := BitVec.ofInt 8 ((e.toInt + 0x8000) / 65536)

end Sys2Proof.Machine
end

