-- ==== Sys2Proof/Machine/Ops.lean ====
section
/-! DEFINITION. The named operations over the state: the encodings of its enumerations, the ring RAMs (R60 to R66), one
update for each field, the outputs (R14, R84, R250), the environment's draws (R14, D41), the bus frames as events
(R116, R118), entering FAULTED (R244) and the reset (R260). -/

namespace Sys2Proof.Machine

/-! ## Encodings -/

/-- `LD_STATE` as 2 bits (R34). -/
def LdState.code : LdState → BitVec 2
  | .stopped => 0
  | .waiting => 1
  | .running => 2

/-- `STATUS` as 2 bits (R84, R240). -/
def Status.code : Status → BitVec 2
  | .ok => 0
  | .illegalOpcode => 1
  | .illegalField => 2
  | .illegalOperand => 3

/-- The response word `RSP34` (R84). -/
def Rsp.word (r : Rsp) : BitVec 34 := r.status.code ++ r.value

/-- The 2-bit code of a notifier event (R250). -/
def Event.code : Event → BitVec 2
  | .start => 1
  | .stop => 2
  | .lapStart => 3

/-- A frame as a 25-bit integer, bit k the k-th cell sent: `a | (rw << 4) | (d << 5)` (R115). -/
def BusFrame.word : BusFrame → BitVec 25
  | .write a d => d ++ 1#1 ++ a
  | .read a r => r ++ 0#1 ++ a

/-- The 25 cells of a frame in send order (R115). -/
def BusFrame.cells (f : BusFrame) : List Bool := (List.range Config.frameCells).map f.word.getLsbD

/-! ## The ring RAMs -/

/-- `MemRead`: an index that is not listed reads 0 (R13, R64). -/
def Memory.read {w : Nat} (i : Nat) : Memory w → BitVec w
  | [] => 0
  | (j, v) :: rest => if i = j then v else Memory.read i rest

/-- A non-zero entry on top of a tail, a zero entry left out. -/
def Memory.cons {w : Nat} (i : Nat) (v : BitVec w) (m : Memory w) : Memory w := if v = 0 then m else (i, v) :: m

/-- `MemWrite`: one whole entry (R13, R65), keeping the canonical form. -/
def Memory.write {w : Nat} (i : Nat) (v : BitVec w) : Memory w → Memory w
  | [] => Memory.cons i v []
  | (j, u) :: rest =>
    if i < j then Memory.cons i v ((j, u) :: rest)
    else if i = j then Memory.cons i v rest
    else (j, u) :: Memory.write i v rest

/-- Every entry 0 (R64). -/
def Memory.clear {w : Nat} : Memory w := []

/-! ## Field updates -/

/-- The other port. -/
def Port.other : Port → Port
  | .p0 => .p1
  | .p1 => .p0

/-- The state of a port. -/
def State.port (s : State) : Port → PortState
  | .p0 => s.p0
  | .p1 => s.p1

/-- Write the state of a port. -/
def State.setPort (p : Port) (ps : PortState) (s : State) : State :=
  match p with
  | .p0 => { s with p0 := ps }
  | .p1 => { s with p1 := ps }

/-- Write what a port is doing. -/
def State.setBusy (p : Port) (b : Busy) (s : State) : State := s.setPort p { s.port p with busy := b }

/-- Write a port's queue of presented words. -/
def State.setQueue (p : Port) (q : List Cmd) (s : State) : State := s.setPort p { s.port p with queue := q }

/-- Write the RXD registers. -/
def State.setRx (r : Rxd) (s : State) : State := { s with rx := r }
/-- Write the pins. -/
def State.setPins (p : Pins) (s : State) : State := { s with pins := p }
/-- Write the frame sequencer's position. -/
def State.setSeq (q : Option SeqPos) (s : State) : State := { s with seq := q }
/-- Write the filter registers. -/
def State.setKf (k : Kf) (s : State) : State := { s with kf := k }
/-- Write the detector registers and RAMs. -/
def State.setLd (l : Ld) (s : State) : State := { s with ld := l }
/-- Write the configuration registers. -/
def State.setCfg (c : Cfg) (s : State) : State := { s with cfg := c }
/-- Name the port whose command executes. -/
def State.setCur (p : Port) (s : State) : State := { s with cur := p }
/-- Write the turns the environment has chosen. -/
def State.setSched (t : List Turn) (s : State) : State := { s with env := { s.env with sched := t } }

/-- `CUR_FREQ <- f` (R22). -/
def State.setCurFreq (f : Mhz) (s : State) : State := s.setRx { s.rx with curFreq := f }
/-- `PWR_DOWN <- b` (R25). -/
def State.setPwrDown (b : Bool) (s : State) : State := s.setRx { s.rx with pwrDown := b }
/-- `RETUNED <- 0` (R23). -/
def State.clearRetuned (s : State) : State := s.setRx { s.rx with retuned := false }
/-- `RETUNED <- 1; RETUNE_TS <- now` (R23, R24). -/
def State.arm (now : Ms) (s : State) : State := s.setRx { s.rx with retuned := true, retuneTs := now }

/-! ## Outputs -/

/-- Append to the ordered outputs. -/
def State.emit (o : Obs) (s : State) : State := { s with trace := s.trace ++ [o] }

/-- `respond(status, value)`: the response word on the port of the command (R14, R84). -/
def State.respond (st : Status) (v : BitVec 32) (s : State) : State := s.emit (.rsp s.cur { status := st, value := v })

/-- `Notify(code)` (R14, R250). -/
def State.notify (e : Event) (s : State) : State := s.emit (.notify e)

/-! ## The environment's draws -/

/-- The ADC sample the next draw takes: the first one presented, or a free value (R134, D41; log 4). -/
def Env.nextAdc (e : Env) : Adc :=
  match e.adcIn with
  | a :: _ => a
  | [] => Config.freeAdc e.adcDraws

/-- `Adc()` consumes one sample (R14). -/
def State.takeAdc (s : State) : State :=
  { s with env := { s.env with adcIn := s.env.adcIn.tail, adcDraws := s.env.adcDraws + 1 } }

/-- What the module drives in the next read frame: the first value presented, or a free value (R118, D41; log 5). -/
def Env.nextRead (e : Env) : BusData :=
  match e.readIn with
  | r :: _ => r
  | [] => Config.freeReadBack e.readDraws

/-- A read frame consumes one read-back value (R118). -/
def State.takeRead (s : State) : State :=
  { s with env := { s.env with readIn := s.env.readIn.tail, readDraws := s.env.readDraws + 1 } }

/-! ## The bus -/

/-- Drive the idle levels (R26, R121). -/
def State.idlePins (s : State) : State := s.setPins Pins.idleLevels

/-- Count the `T_BIT` waits the sequencer spends (R117). -/
def State.wait (n : Nat) (s : State) : State := { s with busWaits := s.busWaits + n }

/-- The end of a write frame: deassert select, clear the data and clock lines (R116). -/
def Pins.endWrite (p : Pins) : Pins := { p with sel := !Config.selActive, data := false, clk := false }

/-- The end of a read frame: drive DATA again, clear it, deassert select, clear the clock line (R118). -/
def Pins.endRead (p : Pins) : Pins := { p with dataOe := true, data := false, sel := !Config.selActive, clk := false }

/-- `BusWriteFrame(a, d)` as one event (R116): 75 waits, and the pins as the frame's end leaves them. -/
def State.busWrite (a : BusAddr) (d : BusData) (s : State) : State :=
  ((s.wait Config.frameWaits).setPins s.pins.endWrite).emit (.frame (.write a d))

/-- `BusReadFrame(a)` as one event (R118), with the draw it takes. -/
def State.busRead (a : BusAddr) (s : State) : State :=
  (((s.wait Config.frameWaits).setPins s.pins.endRead).emit (.frame (.read a s.env.nextRead))).takeRead

/-- A list of write frames, in order (R119, R120). -/
def State.busWrites : List (BusAddr × BusData) → State → State
  | [], s => s
  | (a, d) :: rest, s => State.busWrites rest (s.busWrite a d)

/-- The bus is held by the other port's bus command (R73). -/
def State.busHeld (s : State) : Bool :=
  match (s.port s.cur.other).busy with
  | .running _ => true
  | .waiting _ => false
  | .idle => false

/-- A bus command issued while the other port holds the bus waits before its first segment (R73). -/
def State.waitForBus (i : Instr) (s : State) : State := s.setBusy s.cur (.waiting i)

/-! ## FAULTED and reset -/

/-- Enter FAULTED(FilterDivZero, port): no response, the pins idle (R244), the sequencer idle with them (log 8). -/
def State.enterFaulted (s : State) : State := { s.idlePins with seq := none, faulted := some (.filterDivZero s.cur) }

/-- `RST`: every register to its reset value, commands in flight abandoned without a response, FAULTED left, the pins
idle, no event (R260). What the host has presented but no port has accepted, the environment and the past outputs stand
(log 9). -/
def State.rst (s : State) : State :=
  { State.reset with
    p0 := { queue := s.p0.queue, busy := .idle }
    p1 := { queue := s.p1.queue, busy := .idle }
    env := s.env
    trace := s.trace
    busWaits := s.busWaits }

end Sys2Proof.Machine
end

