-- ==== Sys2Proof/Machine/Receiver.lean ====
section
/-! DEFINITION. The RX family (spec/40_receiver.md): the tuning micro-operation, RSSI sampling, and the four commands,
each run whole (its segments and frames one after another, frames as events). -/

namespace Sys2Proof.Machine

/-- `SetFreqCore(f, now)` (R120): S1, then the power-down path or the (wake and) tuning path. -/
def setFreqCore (f : Mhz) (now : Ms) (s : State) : State :=
  let s1 := s.setCurFreq f
  if f = Config.powerDownFreq then (s1.busWrites Config.pdSeq).setPwrDown true
  else
    let s2 := if s1.rx.pwrDown then (s1.busWrites Config.wakeSeq).setPwrDown false else s1
    (s2.busWrite Config.tuneAddr (tuneData f)).arm now

/-- The whole of `init()` (R121): idle levels, the wake frames, `PWR_DOWN <- 0`, and the power-down path. -/
def initCore (s : State) : State :=
  setFreqCore Config.powerDownFreq 0 ((s.idlePins.busWrites Config.wakeSeq).setPwrDown false)

/-- H1 of `RX_HFC`: retune if a change is due (R125). -/
def hfcChange (f : Mhz) (now : Ms) (s : State) : State :=
  if retuneDue f now s.rx then setFreqCore f now s else s

/-- Whether H2 verifies: the parameter says so and the module is up (R125, R126). -/
def verifies (s : State) : Bool := s.env.verifyReadback && !s.rx.pwrDown

/-- H2 of `RX_HFC`, and H3 where it verifies: the state (R125). -/
def hfcSettle (now : Ms) (s : State) : State :=
  if settleDue now s.rx then
    if verifies s then s.clearRetuned.busRead Config.tuneAddr else s.clearRetuned
  else s

/-- The report bits of H2 and H3 (R125 to R127). -/
def settleReport (now : Ms) (s : State) : BitVec 32 :=
  if settleDue now s.rx then
    if verifies s then
      repSettled ||| repVerified s.env.nextRead ||| repMismatch s.env.nextRead (tuneData s.rx.curFreq)
    else repSettled
  else 0

/-- The report word of `RX_HFC` (R127). -/
def hfcReport (f : Mhz) (now : Ms) (s : State) : BitVec 32 :=
  (if retuneDue f now s.rx then repRetune else 0) ||| settleReport now (hfcChange f now s)

/-- Run a bus command, or have it wait while the other port holds the bus (R73). -/
def busCommand (i : Instr) (run : State → State) (s : State) : State :=
  if s.busHeld then s.waitForBus i else run s

/-- Run a command whose frequency is admitted, or answer `ILLEGAL_OPERAND` with no other effect (R88, R89). -/
def withFreq (f : Mhz) (run : State → State) (s : State) : State :=
  if admitted f then run s else s.respond .illegalOperand 0

/-- `RX_INIT` (R121). -/
def execRxInit (s : State) : Host.Outcome State Fault Refusal :=
  .next (busCommand .rxInit (fun s => (initCore s).respond .ok 0) s)

/-- `RX_SETFREQ freq, now` (R122). -/
def execRxSetfreq (freq : Mhz) (now : Ms) (s : State) : Host.Outcome State Fault Refusal :=
  .next (withFreq freq (busCommand (.rxSetfreq freq now) fun s => (setFreqCore freq now s).respond .ok 0) s)

/-- `RX_HFC freq, now` (R125). -/
def execRxHfc (freq : Mhz) (now : Ms) (s : State) : Host.Outcome State Fault Refusal :=
  .next (withFreq freq (busCommand (.rxHfc freq now) fun s =>
    (hfcSettle now (hfcChange freq now s)).respond .ok (hfcReport freq now s)) s)

/-- The value of `ReadRssi()`: 0 while a retune is pending settle, else the scaled sample (R134). -/
def readRssi (s : State) : Rssi := if s.rx.retuned then 0 else scaleAdc s.env.nextAdc

/-- The state after `ReadRssi()`: a draw is taken only when `RETUNED` = 0 (R134). -/
def afterReadRssi (s : State) : State := if s.rx.retuned then s else s.takeAdc

/-- `RX_READRSSI` (R135). -/
def execRxReadrssi (s : State) : Host.Outcome State Fault Refusal :=
  .next ((afterReadRssi s).respond .ok ((readRssi s).setWidth 32))

end Sys2Proof.Machine
end

