-- ==== Sys2Proof/Machine/ConfigBank.lean ====
section
/-! DEFINITION. The CFG family (spec/43_config.md): each command writes one whole register (R234). -/

namespace Sys2Proof.Machine

/-- `CFG_MINLAP ms` (R230). -/
def execCfgMinlap (ms : Ms) (s : State) : Host.Outcome State Fault Refusal :=
  .next ((s.setCfg { s.cfg with minlap := ms }).respond .ok 0)

/-- `CFG_ENTER level` (R231). -/
def execCfgEnter (level : Rssi) (s : State) : Host.Outcome State Fault Refusal :=
  .next ((s.setCfg { s.cfg with enter := level }).respond .ok 0)

/-- `CFG_EXIT level` (R232). -/
def execCfgExit (level : Rssi) (s : State) : Host.Outcome State Fault Refusal :=
  .next ((s.setCfg { s.cfg with exit := level }).respond .ok 0)

/-- `CFG_FREQ freq` (R233): it does not tune the receiver. -/
def execCfgFreq (freq : Mhz) (s : State) : Host.Outcome State Fault Refusal :=
  .next (withFreq freq (fun s => (s.setCfg { s.cfg with freq := freq }).respond .ok 0) s)

end Sys2Proof.Machine
end

