-- ==== Sys2Proof/Machine/Filter.lean ====
section
/-! DEFINITION. The KF family (spec/41_filter.md): the filter step on the filter registers alone (R163 item 4), computed
on exact integers and narrowed to the registers' widths at the end (R11, R160; log 13), and the three commands. -/

namespace Sys2Proof.Machine

/-- The predicted covariance of a step (R160). -/
def Kf.pcov (k : Kf) : Nat := k.cov.toNat + k.pnoise.toNat

/-- The gain's denominator (R160, R164). -/
def Kf.den (k : Kf) : Nat := k.pcov + k.mnoise.toNat

/-- The gain, a truncated Q0.16 fraction (R160). -/
def Kf.gain (k : Kf) : Nat := k.pcov * Config.one / k.den

/-- `m << 16`: a measurement in Q16.16 (R160). -/
def measured (m : Rssi) : Int := m.toNat * Config.one

/-- The next estimate of a non-seeding step: the shift floors (R160). -/
def Kf.nextEst (k : Kf) (m : Rssi) : Int :=
  k.est.toInt + (k.gain : Int) * (measured m - k.est.toInt) / (Config.one : Int)

/-- The next covariance of a non-seeding step, truncated (R160). -/
def Kf.nextCov (k : Kf) : Nat := k.pcov * (Config.one - k.gain) / Config.one

/-- `FilterStep(m)` (R160): the next filter registers, or none where the step raises `FilterDivZero` (R164). -/
def filterStep (m : Rssi) (k : Kf) : Option Kf :=
  if !k.init then some { k with init := true, est := BitVec.ofInt 32 (measured m), cov := k.mnoise }
  else if k.den = 0 then none
  else some { k with est := BitVec.ofInt 32 (k.nextEst m), cov := BitVec.ofNat 32 k.nextCov }

/-- `KF_FILTER m` (R161). -/
def execKfFilter (m : Rssi) (s : State) : Host.Outcome State Fault Refusal :=
  .next (match filterStep m s.kf with
    | some k => (s.setKf k).respond .ok k.est
    | none => s.enterFaulted)

/-- `KF_SETMNOISE value` (R170). -/
def execKfSetmnoise (value : BitVec 28) (s : State) : Host.Outcome State Fault Refusal :=
  .next ((s.setKf { s.kf with mnoise := noiseValue value }).respond .ok 0)

/-- `KF_SETPNOISE value` (R171). -/
def execKfSetpnoise (value : BitVec 28) (s : State) : Host.Outcome State Fault Refusal :=
  .next ((s.setKf { s.kf with pnoise := noiseValue value }).respond .ok 0)

end Sys2Proof.Machine
end

