-- ==== Sys2Proof/Machine/Detector.lean ====
section
/-! DEFINITION. The LD family (spec/42_detector.md): the ring cursors (R61, R63), peak capture (R180 to R182), lap start
and finish (R183, R184), the sample path (R185), the lifecycle (R186) and the six commands. -/

namespace Sys2Proof.Machine

/-- The write of one sample into the RSSI ring (R61): the cursor advances mod 100. -/
def Ld.storeSample (smp : Rssi) (l : Ld) : Ld :=
  { l with rssiRam := Memory.write l.rssiCur.val smp l.rssiRam, rssiCur := l.rssiCur + 1 }

/-- The most recent write of the RSSI ring: entry `(RSSI_CUR + 99) mod 100` (R61, R205). -/
def Ld.newestSample (l : Ld) : Rssi := Memory.read (l.rssiCur + 99).val l.rssiRam

/-- The most recent write of the lap ring: entry `(LAP_CUR + 49) mod 50`, slot 49 when the cursor is 0 (R63, R206). -/
def Ld.newestLap (l : Ld) : BitVec 32 := Memory.read (l.lapCur + 49).val l.lapRam

/-- `PeakStep(s, now)` (R180). -/
def Ld.peakStep (smp : Rssi) (now : Ms) (c : Cfg) (l : Ld) : Ld :=
  if raisesPeak smp c l then { l with peak := smp, peakTs := now } else l

/-- The register writes of `StartLap()` (R183). -/
def Ld.startLap (l : Ld) : Ld := { l with lapStart := l.peakTs, peak := 0, peakTs := 0 }

/-- `FinishLap()` (R184): the duration into the lap ring, the cursor on mod 50, the mailbox full. -/
def Ld.finishLap (l : Ld) : Ld :=
  { l with
    lapRam := Memory.write l.lapCur.val (elapsed l.peakTs l.lapStart) l.lapRam
    lapCur := l.lapCur + 1
    lapAvail := true }

/-- Steps 2 to 4 of `handleUpdate` (R186, R203): the next detector registers, and whether a lap starts (R183). -/
def Ld.transition (smp : Rssi) (now : Ms) (c : Cfg) (l : Ld) : Ld × Bool :=
  match l.state with
  | .stopped => (l, false)
  | .waiting =>
    let l1 := l.peakStep smp now c
    if captured smp c l1 then (Ld.startLap { l1 with state := .running }, true) else (l1, false)
  | .running =>
    if gateOpen now c l then
      let l1 := l.peakStep smp now c
      if captured smp c l1 then (l1.finishLap.startLap, true) else (l1, false)
    else (l, false)

/-- The detector's part of a tick: its registers, and LAPSTART when a lap starts (R183, R250). -/
def State.detect (smp : Rssi) (now : Ms) (s : State) : State :=
  let r := s.ld.transition smp now s.cfg
  if r.2 then (s.setLd r.1).notify .lapStart else s.setLd r.1

/-- `LD_START` (R200): Stopped to Waiting, ignored elsewhere. -/
def execLdStart (s : State) : Host.Outcome State Fault Refusal :=
  .next (match s.ld.state with
    | .stopped =>
      ((s.setLd { s.ld with lapCur := 0, lapAvail := false, peak := 0, peakTs := 0, state := .waiting }).notify
        .start).respond .ok 1
    | .waiting => s.respond .ok 0
    | .running => s.respond .ok 0)

/-- `LD_STOP` (R201): clear both RAMs, both cursors, the peak and the mailbox; STOP on every call. -/
def execLdStop (s : State) : Host.Outcome State Fault Refusal :=
  .next (((s.setLd { s.ld with
    state := .stopped, lapRam := Memory.clear, lapCur := 0, rssiRam := Memory.clear, rssiCur := 0,
    peak := 0, peakTs := 0, lapAvail := false }).notify .stop).respond .ok 0)

/-- `LD_UPDATE now` (R203): the sample path (R185), then the lifecycle (R186). Where the filter faults, nothing after it
is done and the draw stays consumed (R185, R244). -/
def execLdUpdate (now : Ms) (s : State) : Host.Outcome State Fault Refusal :=
  .next (match filterStep (readRssi s) s.kf with
    | none => (afterReadRssi s).enterFaulted
    | some k =>
      let smp := round8 k.est
      ((((afterReadRssi s).setKf k).setLd (s.ld.storeSample smp)).detect smp now).respond .ok (smp.setWidth 32))

/-- `LD_GETRSSI` (R205). -/
def execLdGetrssi (s : State) : Host.Outcome State Fault Refusal :=
  .next (s.respond .ok (s.ld.newestSample.setWidth 32))

/-- `LD_GETLAP` (R206): read the newest lap and clear the mailbox in one step (R77). -/
def execLdGetlap (s : State) : Host.Outcome State Fault Refusal :=
  .next ((s.setLd { s.ld with lapAvail := false }).respond .ok s.ld.newestLap)

/-- `LD_ISLAPAVAIL` (R207). -/
def execLdIslapavail (s : State) : Host.Outcome State Fault Refusal :=
  .next (s.respond .ok (if s.ld.lapAvail then 1 else 0))

end Sys2Proof.Machine
end

