-- ==== Sys2Proof/Machine/Dispatch.lean ====
section
/-! DEFINITION. One arm for each command: the call of its meaning. -/

namespace Sys2Proof.Machine

def exec (i : Instr) (s : State) : Host.Outcome State Fault Refusal :=
  match i with
  | .rxInit => Sys2Proof.Machine.execRxInit s
  | .rxSetfreq freq now => Sys2Proof.Machine.execRxSetfreq freq now s
  | .rxHfc freq now => Sys2Proof.Machine.execRxHfc freq now s
  | .rxReadrssi => Sys2Proof.Machine.execRxReadrssi s
  | .kfFilter m => Sys2Proof.Machine.execKfFilter m s
  | .kfSetmnoise value => Sys2Proof.Machine.execKfSetmnoise value s
  | .kfSetpnoise value => Sys2Proof.Machine.execKfSetpnoise value s
  | .ldStart => Sys2Proof.Machine.execLdStart s
  | .ldStop => Sys2Proof.Machine.execLdStop s
  | .ldUpdate now => Sys2Proof.Machine.execLdUpdate now s
  | .ldGetrssi => Sys2Proof.Machine.execLdGetrssi s
  | .ldGetlap => Sys2Proof.Machine.execLdGetlap s
  | .ldIslapavail => Sys2Proof.Machine.execLdIslapavail s
  | .cfgMinlap ms => Sys2Proof.Machine.execCfgMinlap ms s
  | .cfgEnter level => Sys2Proof.Machine.execCfgEnter level s
  | .cfgExit level => Sys2Proof.Machine.execCfgExit level s
  | .cfgFreq freq => Sys2Proof.Machine.execCfgFreq freq s

end Sys2Proof.Machine
end

