-- ==== Sys2Proof/Machine/Sequencer.lean ====
section
/-! DEFINITION. The bus commands one atomic action at a time: the program of segments and frames of each command (R71,
R120, R121, R125), and the frame sequencer, which drives a frame phase by phase on the pins (R21, R115 to R118). A command
run this way to its end leaves what its meaning in Receiver.lean leaves. -/

namespace Sys2Proof.Machine

/-- The write frames of a sequence, in order (R120). -/
def frameOps (fs : List (BusAddr × BusData)) : List BusOp := fs.map fun x => .frame (.write x.1 x.2)

/-- What `SetFreqCore` does after S1, on the path S1 chooses (R120). -/
def tunePath (down : Bool) (f : Mhz) (now : Ms) : List BusOp :=
  if f = Config.powerDownFreq then frameOps Config.pdSeq ++ [.seg (.power true)]
  else (if down then frameOps Config.wakeSeq ++ [.seg (.power false)] else []) ++
    [.frame (.write Config.tuneAddr (tuneData f)), .seg (.arm now)]

/-- The program of a bus command whose operands are admitted, none for any other command (R71, R88). -/
def busProgram : Instr → Option (List BusOp)
  | .rxInit => some (.seg .idle :: (frameOps Config.wakeSeq ++ [.seg (.power false), .seg (.tune Config.powerDownFreq 0)]))
  | .rxSetfreq freq now => if admitted freq then some [.seg (.tune freq now)] else none
  | .rxHfc freq now => if admitted freq then some [.seg (.change freq now), .seg (.settle now)] else none
  | .rxReadrssi => none
  | .kfFilter _ => none
  | .kfSetmnoise _ => none
  | .kfSetpnoise _ => none
  | .ldStart => none
  | .ldStop => none
  | .ldUpdate _ => none
  | .ldGetrssi => none
  | .ldGetlap => none
  | .ldIslapavail => none
  | .cfgMinlap _ => none
  | .cfgEnter _ => none
  | .cfgExit _ => none
  | .cfgFreq _ => none

/-- One segment, atomic (R71); `f` is the flight with the segment already taken off its list. -/
def runSegment (g : Segment) (f : Flight) (s : State) : State × Flight :=
  match g with
  | .idle => (s.idlePins, f)
  | .power down => (s.setPwrDown down, f)
  | .tune freq now => (s.setCurFreq freq, { f with todo := tunePath s.rx.pwrDown freq now ++ f.todo })
  | .arm now => (s.arm now, f)
  | .change freq now =>
    if retuneDue freq now s.rx then
      (s.setCurFreq freq,
        { f with todo := tunePath s.rx.pwrDown freq now ++ f.todo, rep := f.rep ||| repRetune })
    else (s, f)
  | .settle now =>
    if settleDue now s.rx then
      if verifies s then
        (s.clearRetuned,
          { f with todo := .frame (.read Config.tuneAddr) :: .seg .compare :: f.todo, rep := f.rep ||| repSettled })
      else (s.clearRetuned, { f with rep := f.rep ||| repSettled })
    else (s, f)
  | .compare =>
    (s, { f with rep := f.rep ||| (repVerified f.rb ||| repMismatch f.rb (tuneData s.rx.curFreq)) })

/-- The pins as the setup phase of a cell leaves them: DATA carries the cell (R117), but in a read frame's data cells the
block releases DATA (R118). -/
def cellPins (r : FrameReq) (b : Fin 25) (p : Pins) : Pins :=
  match r with
  | .write a d => { p with data := (BusFrame.write a d).word.getLsbD b.val }
  | .read a =>
    if b.val < 5 then { p with data := (BusFrame.read a 0).word.getLsbD b.val } else { p with dataOe := false }

/-- A read frame's data bit, sampled while the clock is high: bit k of what the module drives (R118). -/
def sampleBit (r : FrameReq) (b : Fin 25) (drawn rb : BusData) : BusData :=
  match r with
  | .write _ _ => rb
  | .read _ => if 5 ≤ b.val ∧ drawn.getLsbD (b.val - 5) then rb ||| BitVec.twoPow 20 (b.val - 5) else rb

/-- The end of a frame: the pins, the event, and a read frame's draw consumed (R116, R118). -/
def endFrame (r : FrameReq) (rb : BusData) (s : State) : State :=
  match r with
  | .write a d => (s.setPins s.pins.endWrite).emit (.frame (.write a d))
  | .read a => ((s.setPins s.pins.endRead).emit (.frame (.read a rb))).takeRead

/-- One move of the sequencer on a frame (R116 to R118). From idle it selects the module and sets the first cell up; each
later move ends one `T_BIT` wait and acts for the next phase; the last one ends the frame. `f` is the flight with the frame
still at the head of its list, `rest` what follows it. -/
def driveFrame (r : FrameReq) (rest : List BusOp) (f : Flight) (s : State) : State × Flight :=
  match s.seq with
  | none =>
    ((s.setPins (cellPins r 0 { s.pins with sel := Config.selActive })).setSeq (some ⟨f.frames, 0, .setup⟩),
      { f with rb := 0 })
  | some ⟨n, b, .setup⟩ => (((s.wait 1).setPins { s.pins with clk := true }).setSeq (some ⟨n, b, .high⟩), f)
  | some ⟨n, b, .high⟩ =>
    (((s.wait 1).setPins { s.pins with clk := false }).setSeq (some ⟨n, b, .low⟩),
      { f with rb := sampleBit r b s.env.nextRead f.rb })
  | some ⟨n, b, .low⟩ =>
    if h : b.val + 1 < 25 then
      (((s.wait 1).setPins (cellPins r ⟨b.val + 1, h⟩ s.pins)).setSeq (some ⟨n, ⟨b.val + 1, h⟩, .setup⟩), f)
    else (endFrame r f.rb ((s.wait 1).setSeq none), { f with todo := rest, frames := f.frames + 1 })

/-- One atomic action of the current port's flight; with nothing left, the response (R71, R84). -/
def advance (f : Flight) (s : State) : State :=
  match f.todo with
  | [] => (s.setBusy s.cur .idle).respond .ok f.rep
  | .seg g :: rest =>
    let r := runSegment g { f with todo := rest } s
    r.1.setBusy s.cur (.running r.2)
  | .frame q :: rest =>
    let r := driveFrame q rest f s
    r.1.setBusy s.cur (.running r.2)

/-- A bus command at its first action: no frame sent, an empty report (R21, R127). -/
def Flight.start (ops : List BusOp) : Flight := { todo := ops, frames := 0, rep := 0, rb := 0 }

end Sys2Proof.Machine
end

