-- ==== Sys2Proof/Machine/Ports.lean ====
section
/-! DEFINITION. The two ports and the order of their atomic steps (R70 to R74, R86, R244, R260): how a port accepts the
next word, waits for the bus, runs a command whole or one atomic action at a time, and which turn comes next. -/

namespace Sys2Proof.Machine

/-- The host presents a word on a port, behind those it has presented before (R7, R72). -/
def State.present (p : Port) (w : Cmd) (s : State) : State := s.setQueue p ((s.port p).queue ++ [w])

/-- The status of a word the decoder refuses (R86, R240). -/
def refusalStatus : DecodeError → Status
  | .illegalOpcode => .illegalOpcode
  | .illegalField => .illegalField

/-- Start a command on the current port: whole, or, for a bus command in an atomic turn, its first segment only (R70, R71). -/
def issue (whole : Bool) (i : Instr) (s : State) : Host.Outcome State Fault Refusal :=
  if whole then exec i s
  else
    match busProgram i with
    | none => exec i s
    | some ops => .next (if s.busHeld then s.waitForBus i else advance (Flight.start ops) s)

/-- A port decodes the word it accepts; a refused word is answered by its status and has no other effect (R86, R89). -/
def accept (whole : Bool) (w : Cmd) (s : State) : Host.Outcome State Fault Refusal :=
  match decode w with
  | .ok i => issue whole i s
  | .error e => .next (s.respond (refusalStatus e) 0)

/-- One turn of port `p` (R70 to R73): its flight goes on, or its waiting command starts once the bus is free, or it
accepts the next word. A port with nothing to do leaves the state as it is. -/
def runPort (whole : Bool) (p : Port) (s : State) : Host.Outcome State Fault Refusal :=
  match (s.port p).busy with
  | .running f => .next (advance f (s.setCur p))
  | .waiting i => if (s.setCur p).busHeld then .next s else issue whole i ((s.setCur p).setBusy p .idle)
  | .idle =>
    match (s.port p).queue with
    | [] => .next s
    | w :: q => accept whole w ((s.setCur p).setQueue p q)

/-- In FAULTED no command is accepted and nothing moves (R244). -/
def turnOf (whole : Bool) (p : Port) (s : State) : Host.Outcome State Fault Refusal :=
  if s.faulted.isSome then .next s else runPort whole p s

/-- Whether port `p` has an atomic step ready (R73, R74). -/
def State.ready (s : State) (p : Port) : Bool :=
  match (s.port p).busy with
  | .running _ => true
  | .waiting _ => !(s.setCur p).busHeld
  | .idle => !(s.port p).queue.isEmpty

/-- Where the environment has chosen no turn, P0's ready step is taken first (R74; log 6). -/
def State.readyPort (s : State) : Option Port :=
  if s.ready .p0 then some .p0 else if s.ready .p1 then some .p1 else none

/-- One step of the block: the turn the environment has chosen, or the default turn. With no turn chosen, an idle block
stays as it is, and a block in FAULTED is stuck (R244; log 8). -/
def stepBlock (s : State) : Host.Outcome State Fault Refusal :=
  match s.env.sched with
  | .whole p :: rest => turnOf true p (s.setSched rest)
  | .atom p :: rest => turnOf false p (s.setSched rest)
  | .reset :: rest => .next (s.setSched rest).rst
  | [] =>
    match s.faulted with
    | some f => .fault f
    | none =>
      match s.readyPort with
      | some p => runPort true p s
      | none => .next s

/-- `s` with the word `w` next on P0, both ports free, FAULTED left, and P0's turn to run a command whole (log 10). -/
def State.withNext (w : Cmd) (s : State) : State :=
  { s with
    faulted := none
    p0 := { queue := w :: s.p0.queue, busy := .idle }
    p1 := { s.p1 with busy := .idle }
    env := { s.env with sched := .whole .p0 :: s.env.sched } }

end Sys2Proof.Machine
end

