-- ==== Sys2Proof/Machine/Step.lean ====
section
/-! DEFINITION. The step of the block, and where it takes its next command from. -/

namespace Sys2Proof.Machine

/-- One atomic step of the block (R70). -/
def step (s : State) : Host.Outcome State Fault Refusal := stepBlock s

/-- `s` with one command word standing where the next step accepts its command (log 10). -/
def State.withFetchWord (s : State) (nbits w : Nat) : State := s.withNext (tableWord nbits w)

end Sys2Proof.Machine
end

