-- ==== Sys2Proof/Machine/Asm.lean ====
section
/-! DEFINITION. The assembler level (spec/30_encoding.md R90, R91): how a command is written, and the pseudo-instructions,
each of which only stands for real commands. -/

namespace Sys2Proof.Machine

/-- The mnemonic of a command (R83, R90). -/
def mnemonicOf : Instr → String
  | .rxInit => "RX_INIT"
  | .rxSetfreq _ _ => "RX_SETFREQ"
  | .rxHfc _ _ => "RX_HFC"
  | .rxReadrssi => "RX_READRSSI"
  | .kfFilter _ => "KF_FILTER"
  | .kfSetmnoise _ => "KF_SETMNOISE"
  | .kfSetpnoise _ => "KF_SETPNOISE"
  | .ldStart => "LD_START"
  | .ldStop => "LD_STOP"
  | .ldUpdate _ => "LD_UPDATE"
  | .ldGetrssi => "LD_GETRSSI"
  | .ldGetlap => "LD_GETLAP"
  | .ldIslapavail => "LD_ISLAPAVAIL"
  | .cfgMinlap _ => "CFG_MINLAP"
  | .cfgEnter _ => "CFG_ENTER"
  | .cfgExit _ => "CFG_EXIT"
  | .cfgFreq _ => "CFG_FREQ"

/-- The operands of a command as it is written: their names and values, fixed-zero fields left out (R90). -/
def operandsOf : Instr → List (String × Nat)
  | .rxInit => []
  | .rxSetfreq freq now => [("freq", freq.toNat), ("now", now.toNat)]
  | .rxHfc freq now => [("freq", freq.toNat), ("now", now.toNat)]
  | .rxReadrssi => []
  | .kfFilter m => [("m", m.toNat)]
  | .kfSetmnoise v => [("value", v.toNat)]
  | .kfSetpnoise v => [("value", v.toNat)]
  | .ldStart => []
  | .ldStop => []
  | .ldUpdate now => [("now", now.toNat)]
  | .ldGetrssi => []
  | .ldGetlap => []
  | .ldIslapavail => []
  | .cfgMinlap ms => [("ms", ms.toNat)]
  | .cfgEnter l => [("level", l.toNat)]
  | .cfgExit l => [("level", l.toNat)]
  | .cfgFreq freq => [("freq", freq.toNat)]

/-- A command as text, operands in decimal: `MNEMONIC name=value, name=value` (R90). -/
def render (i : Instr) : String :=
  match operandsOf i with
  | [] => mnemonicOf i
  | ops => mnemonicOf i ++ " " ++ String.intercalate ", " (ops.map fun x => x.1 ++ "=" ++ toString x.2)

/-- The pseudo-instructions (R91). -/
inductive Pseudo where
  /-- `RX_POWERDOWN now=t`. -/
  | rxPowerdown (now : Ms)
  /-- `CFG_THRESH enter=a, exit=b`. -/
  | cfgThresh (enter exit : Rssi)
  /-- `KF_SETNOISE mnoise=x, pnoise=y`. -/
  | kfSetnoise (mnoise pnoise : BitVec 28)
  deriving DecidableEq, Repr

/-- The real commands a pseudo-instruction expands to, in issue order on one port (R91). -/
def expand : Pseudo → List Instr
  | .rxPowerdown now => [.rxSetfreq Config.powerDownFreq now]
  | .cfgThresh enter exit => [.cfgEnter enter, .cfgExit exit]
  | .kfSetnoise mnoise pnoise => [.kfSetmnoise mnoise, .kfSetpnoise pnoise]

end Sys2Proof.Machine
end

