-- ==== Sys2Proof/Safety.lean ====
section
/-! DEFINITION. What a sound state of the block is: the invariants of spec/10_state.md R48, those of the filter (R163), the
canonical form of the two RAMs, one bus owner (R73), and pins that are where the sequencer says (R26, R116 to R118). Items 1
and 2 of R48 hold by the types of the cursors and of `LD_STATE`. -/

namespace Sys2Proof.Machine

/-- Both RAMs are in canonical form, within their capacities (R60, R66). -/
def ramOk (l : Ld) : Bool := Memory.wf Config.nRssi l.rssiRam && Memory.wf Config.mLap l.lapRam

/-- Legal noise values (R32, R33), the covariance's bound (R163 item 3) and the estimate's range (R48 item 5). -/
def filterOk (k : Kf) : Bool :=
  decide (k.mnoise.toNat < Config.noiseLimit) && decide (k.pnoise.toNat < Config.noiseLimit) &&
  decide (k.cov.toNat < 2 ^ 29) &&
  (!k.init || (decide (0 ≤ k.est.toInt) && decide (k.est.toInt ≤ 255 * 65536)))

/-- The detector's invariants (R48 items 6 to 8). -/
def detectorOk (l : Ld) : Bool :=
  (l.peak != 0 || l.peakTs == 0) &&
  (l.state != .stopped || (l.lapRam == [] && l.lapCur == 0)) &&
  (!l.lapAvail || l.state == .running)

/-- The receiver's invariants between commands (R48 items 3 and 4). -/
def receiverOk (r : Rxd) : Bool :=
  (r.pwrDown == (r.curFreq == Config.powerDownFreq)) && (!r.retuned || admitted r.curFreq)

/-- The bus command a port is in the middle of. -/
def Busy.flying : Busy → Option Flight
  | .running f => some f
  | .waiting _ => none
  | .idle => none

/-- The bus command in flight, if a port has one. -/
def State.flight (s : State) : Option Flight :=
  match s.p0.busy.flying with
  | some f => some f
  | none => s.p1.busy.flying

/-- At most one port holds the bus (R73). -/
def busOwnerOk (s : State) : Bool := !(s.p0.busy.flying.isSome && s.p1.busy.flying.isSome)

/-- The RXD registers after a whole `SetFreqCore` (R120). -/
def Rxd.tuned (f : Mhz) (now : Ms) (r : Rxd) : Rxd :=
  if f = Config.powerDownFreq then { r with curFreq := f, pwrDown := true }
  else { curFreq := f, pwrDown := false, retuned := true, retuneTs := now }

/-- What an action of a bus command, with all it leads to, does to the RXD registers (R120, R121, R125). -/
def BusOp.onRxd (r : Rxd) : BusOp → Rxd
  | .frame _ => r
  | .seg .idle => r
  | .seg (.power down) => { r with pwrDown := down }
  | .seg (.tune f now) => r.tuned f now
  | .seg (.arm now) => { r with retuned := true, retuneTs := now }
  | .seg (.change f now) => if retuneDue f now r then r.tuned f now else r
  | .seg (.settle now) => if settleDue now r then { r with retuned := false } else r
  | .seg .compare => r

/-- The RXD registers as the bus command in flight will leave them: the registers themselves between commands. -/
def State.rxAtEnd (s : State) : Rxd :=
  match s.flight with
  | none => s.rx
  | some f => f.todo.foldl BusOp.onRxd s.rx

/-- A waiting command is a bus command with admitted operands (R73, R88). -/
def waitingOk (b : Busy) : Bool :=
  match b with
  | .waiting i => (busProgram i).isSome
  | .running _ => true
  | .idle => true

/-- The bus and the receiver: one owner, sound waiting commands, and the receiver's invariants once the flight is over. -/
def busOk (s : State) : Bool :=
  busOwnerOk s && waitingOk s.p0.busy && waitingOk s.p1.busy && receiverOk s.rxAtEnd

/-- The pins while the sequencer drives a phase of a cell (R116 to R118): select asserted, the clock high in the middle
phase only, the cell on DATA, and DATA released in the data cells of a read frame. -/
def pinsAt (r : FrameReq) (b : Fin 25) (ph : Phase) : Pins :=
  match r with
  | .write a d =>
    { sel := Config.selActive, clk := ph == .high, data := (BusFrame.write a d).word.getLsbD b.val, dataOe := true }
  | .read a =>
    { sel := Config.selActive, clk := ph == .high, data := (BusFrame.read a 0).word.getLsbD b.val, dataOe := b.val < 5 }

/-- The pins are idle when `SEQ` is idle, and else where `SEQ` says, in the frame its owner is sending (R21, R26). -/
def pinsOk (s : State) : Bool :=
  match s.seq with
  | none => s.pins == Pins.idleLevels
  | some q =>
    match s.flight with
    | none => false
    | some f =>
      match f.todo with
      | [] => false
      | .seg _ :: _ => false
      | .frame r :: _ => q.frame == f.frames && s.pins == pinsAt r q.bit q.phase

/-- A sound state of the block. -/
def safe (s : State) : Bool :=
  ramOk s.ld && filterOk s.kf && detectorOk s.ld && busOk s && (busOwnerOk s && pinsOk s)

end Sys2Proof.Machine
end

