-- ==== Sys2Proof/WellFormed.lean ====
section
/-! DEFINITION. Which commands are well formed: those whose frequency operand the block admits (R88, R111). Every other
operand is exactly as wide as its field (R81, R82), so no other check is left. An ill-formed command still has a meaning:
it answers `ILLEGAL_OPERAND` (R86, R89). -/

namespace Sys2Proof

/-- The operand range check of rule R88: `RX_SETFREQ`, `RX_HFC` and `CFG_FREQ` take an admitted frequency. -/
def Instr.wellFormed : Instr → Bool
  | .rxSetfreq freq _ => Machine.admitted freq
  | .rxHfc freq _ => Machine.admitted freq
  | .cfgFreq freq => Machine.admitted freq
  | .rxInit => true
  | .rxReadrssi => true
  | .kfFilter _ => true
  | .kfSetmnoise _ => true
  | .kfSetpnoise _ => true
  | .ldStart => true
  | .ldStop => true
  | .ldUpdate _ => true
  | .ldGetrssi => true
  | .ldGetlap => true
  | .ldIslapavail => true
  | .cfgMinlap _ => true
  | .cfgEnter _ => true
  | .cfgExit _ => true

end Sys2Proof
end

