-- ==== Sys2Proof/Certificates/Slice0/Obligations.lean ====
section
/-! DEFINITION. What is claimed of the model: one definition for each obligation, each with the rule or section of spec/ it
formalises. The helpers above the obligations only name things the statements count or compare. -/

open Sys2Proof Sys2Proof.Machine

namespace Sys2Proof.Claims

/-- The rows of spec/opcode_table.json: match and mask. -/
def tableRows : List (Cmd × Cmd) :=
  [ (0x1000000000000000, 0xFFFFFFFFFFFFFFFF), (0x1100000000000000, 0xFFFF000000000000),
    (0x1200000000000000, 0xFFFF000000000000), (0x1300000000000000, 0xFFFFFFFFFFFFFFFF),
    (0x2000000000000000, 0xFFFFFFFFFFFFFF00), (0x2100000000000000, 0xFFFFFFFFF0000000),
    (0x2200000000000000, 0xFFFFFFFFF0000000), (0x3000000000000000, 0xFFFFFFFFFFFFFFFF),
    (0x3100000000000000, 0xFFFFFFFFFFFFFFFF), (0x3200000000000000, 0xFFFFFFFF00000000),
    (0x3300000000000000, 0xFFFFFFFFFFFFFFFF), (0x3400000000000000, 0xFFFFFFFFFFFFFFFF),
    (0x3500000000000000, 0xFFFFFFFFFFFFFFFF), (0x4000000000000000, 0xFFFFFFFF00000000),
    (0x4100000000000000, 0xFFFFFFFFFFFFFF00), (0x4200000000000000, 0xFFFFFFFFFFFFFF00),
    (0x4300000000000000, 0xFFFF0000FFFFFFFF) ]

/-- `w[63:56] << 56` (R86). -/
def opcodePart (w : Cmd) : Cmd := w &&& 0xFF00000000000000

/-- Port `p`, not in the middle of anything, is next to accept the word `w`, in a turn of either grain. -/
structure Accepts (s : State) (p : Port) (whole : Bool) (w : Cmd) (q : List Cmd) (rest : List Turn) : Prop where
  up : s.faulted = none
  turn : s.env.sched = (if whole then Turn.whole p else Turn.atom p) :: rest
  free : (s.port p).busy = .idle
  next : (s.port p).queue = w :: q

/-- The state in which the accepted word is decoded and executed: the turn taken, the word taken off port `p`'s queue, and
`p` the port of the command. -/
def accepted (s : State) (p : Port) (q : List Cmd) (rest : List Turn) : State :=
  ((s.setSched rest).setCur p).setPort p { queue := q, busy := .idle }

/-- The commands that drive the 3-wire bus (R73). -/
def drivesBus : Instr → Bool
  | .rxInit => true
  | .rxSetfreq _ _ => true
  | .rxHfc _ _ => true
  | _ => false

/-- The next filter step has a value: it seeds, or its denominator is not 0 (R160, R164). -/
def stepDefined (k : Kf) : Prop :=
  k.init = false ∨ ¬ (k.cov = 0 ∧ k.pnoise = 0 ∧ k.mnoise = 0)

/-- The responses in a trace. -/
def responses (tr : List Obs) : List Obs :=
  tr.filter fun o => match o with | .rsp _ _ => true | _ => false

/-- The notifier events in a trace. -/
def notifications (tr : List Obs) : List Obs :=
  tr.filter fun o => match o with | .notify _ => true | _ => false

/-- The bus frames in a trace. -/
def busFrames (tr : List Obs) : List Obs :=
  tr.filter fun o => match o with | .frame _ => true | _ => false

/-- The pins as the end of a write frame leaves them (R116). -/
def afterWrite (p : Pins) : Pins := { p with sel := true, clk := false, data := false }

/-- A turn of port `p` of either grain. -/
def turn (whole : Bool) (p : Port) : Turn := if whole then .whole p else .atom p

/-- The tick `LD_UPDATE now` starts a lap: its sample is captured in Waiting, or in Running with the gate open (R186). That
the peak step comes first does not change the capture test (R181). -/
def startsLap (now : Ms) (s : State) : Bool :=
  match filterStep (readRssi s) s.kf with
  | none => false
  | some k =>
    let smp := round8 k.est
    let capture : Bool := decide (smp < s.ld.peak) && decide (smp < s.cfg.exit)
    match s.ld.state with
    | .stopped => false
    | .waiting => capture
    | .running => capture && decide (s.cfg.minlap < now - s.ld.lapStart)

/-- What follows S1 of `SetFreqCore`, written out (R120, R71): the power-down frame and then S2; or, where the module is
down, the wake frame and then S2; and then the tuning frame and S3. -/
def afterS1 (down : Bool) (f : Mhz) (now : Ms) : List BusOp :=
  if f = 1111 then [.frame (.write 0xA 0xFFFFF), .seg (.power true)]
  else (if down then [.frame (.write 0xF 0x00000), .seg (.power false)] else []) ++
    [.frame (.write 0x1 ((encodeFreq f).setWidth 20)), .seg (.arm now)]

/-- The idle levels (R26). -/
def idle : Pins := { sel := true, clk := false, data := false, dataOe := true }

end Sys2Proof.Claims

open Sys2Proof.Claims

/-! ## Encoding -/

/-- Decoding the word of a command gives the command back, with every operand at every value (30_encoding.md, 1 and 2). -/
def Obligations.EncodeThenDecode : Prop := ∀ i : Instr, decode (encode i) = .ok i

/-- A word that decodes is the word of what it decodes to: decoding drops no bit (30_encoding.md, 1 and 2). -/
def Obligations.DecodeThenEncode : Prop := ∀ (w : Cmd) (i : Instr), decode w = .ok i → encode i = w

/-- The decoder accepts exactly the words the opcode table's masks and matches accept, and names the first failing check
(R82, R86). -/
def Obligations.DecodeFollowsOpcodeTable : Prop :=
  ∀ w : Cmd,
    (decode w = .error .illegalOpcode ↔ ∀ row ∈ tableRows, row.1 ≠ opcodePart w) ∧
    (decode w = .error .illegalField ↔ ∃ row ∈ tableRows, row.1 = opcodePart w ∧ w &&& row.2 ≠ row.1) ∧
    ((∃ i, decode w = .ok i) ↔ ∃ row ∈ tableRows, w &&& row.2 = row.1) ∧
    (∀ row ∈ tableRows, row.2 &&& 0x00FF000000000000 = 0x00FF000000000000 ∧ row.1 &&& 0x00FF000000000000 = 0)

/-- The worked encodings of R92, in both directions. -/
def Obligations.WorkedEncodings : Prop :=
  ∀ x ∈ ([ (.rxInit, 0x1000000000000000), (.rxSetfreq 5800 1000, 0x110016A8000003E8), (.rxHfc 5800 30, 0x120016A80000001E),
      (.rxReadrssi, 0x1300000000000000), (.kfFilter 150, 0x2000000000000096), (.kfSetmnoise 0x140000, 0x2100000000140000),
      (.kfSetpnoise 0x10000, 0x2200000000010000), (.ldStart, 0x3000000000000000), (.ldStop, 0x3100000000000000),
      (.ldUpdate 1000, 0x32000000000003E8), (.ldGetrssi, 0x3300000000000000), (.ldGetlap, 0x3400000000000000),
      (.ldIslapavail, 0x3500000000000000), (.cfgMinlap 3000, 0x4000000000000BB8), (.cfgEnter 120, 0x4100000000000078),
      (.cfgExit 100, 0x4200000000000064), (.cfgFreq 5800, 0x430016A800000000) ] : List (Instr × Cmd)),
    encode x.1 = x.2 ∧ decodeTableWord 64 x.2.toNat = some x.1

/-- Every opcode outside the map is answered `ILLEGAL_OPCODE` (R87). -/
def Obligations.UnassignedOpcodesAreIllegal : Prop :=
  ∀ (whole : Bool) (s : State) (w : Cmd),
    let o := (opcField w).toNat
    (o ≤ 0x0F ∨ (0x14 ≤ o ∧ o ≤ 0x1F) ∨ (0x23 ≤ o ∧ o ≤ 0x2F) ∨ (0x36 ≤ o ∧ o ≤ 0x3F) ∨ 0x44 ≤ o) →
      decode w = .error .illegalOpcode ∧
      accept whole w s = .next { s with trace := s.trace ++ [.rsp s.cur ⟨.illegalOpcode, 0⟩] }

/-- What each pseudo-instruction expands to (R91). -/
def Obligations.PseudoInstructionsExpand : Prop :=
  (∀ t : Ms, (expand (.rxPowerdown t)).map encode = [0x1100045700000000 ||| t.setWidth 64]) ∧
  (∀ a b : Rssi, expand (.cfgThresh a b) = [.cfgEnter a, .cfgExit b]) ∧
  (∀ x y : BitVec 28, expand (.kfSetnoise x y) = [.kfSetmnoise x, .kfSetpnoise y])

/-! ## The step and the ports -/

/-- A port whose turn it is runs the command its next word decodes to: `step` is `exec` of it, with the word and the turn
taken and the port named. In an atomic turn a bus command runs in segments instead (`SegmentedRunEndsAsWholeRun`). The
word `withFetchWord` places is the one the next step runs. -/
def Obligations.StepRunsDecodedCommand : Prop :=
  (∀ s p whole w q rest i, Accepts s p whole w q rest → decode w = .ok i → (whole = true ∨ busProgram i = none) →
    step s = exec i (accepted s p q rest)) ∧
  (∀ (s : State) (nbits w : Nat) (i : Instr), decodeTableWord nbits w = some i →
    step (s.withFetchWord nbits w) =
      exec i { s with faulted := none, p0 := { s.p0 with busy := .idle }, p1 := { s.p1 with busy := .idle }, cur := .p0 })

/-- The three checks of R86 in their order, and R89: a word that fails one is answered by that status and `VALUE` 0 and
has no other effect; a word that passes all three is executed. That a bus command accepted in an atomic turn with the bus
free runs its first segment at once is the model's reading of R71 (log 16); with the bus held, see
`BusyBusMakesCommandsWait`. -/
def Obligations.PortAnswersByFirstFailingCheck : Prop :=
  ∀ s p whole w q rest, Accepts s p whole w q rest →
    let s1 := accepted s p q rest
    let answer (st : Status) : Host.Outcome State Fault Refusal := .next { s1 with trace := s.trace ++ [.rsp p ⟨st, 0⟩] }
    ((∀ row ∈ tableRows, row.1 ≠ opcodePart w) → step s = answer .illegalOpcode) ∧
    (∀ row ∈ tableRows, row.1 = opcodePart w →
      (w &&& row.2 ≠ row.1 → step s = answer .illegalField) ∧
      (w &&& row.2 = row.1 → ∃ i, decode w = .ok i ∧
        (i.wellFormed = false → step s = answer .illegalOperand) ∧
        (i.wellFormed = true → whole = true ∨ drivesBus i = false → step s = exec i s1) ∧
        (i.wellFormed = true → whole = false → drivesBus i = true → s1.busHeld = false →
          ∃ ops, busProgram i = some ops ∧ step s = .next (advance (Flight.start ops) s1))))

/-- With no turn chosen, P0's ready step is taken before P1's, and an idle block stays as it is (R74; the default policy is
the model's choice, log 6). -/
def Obligations.P0IsTakenFirst : Prop :=
  ∀ s : State, s.faulted = none → s.env.sched = [] →
    (s.ready .p0 = true → step s = step (s.setSched [.whole .p0])) ∧
    (s.ready .p0 = false → s.ready .p1 = true → step s = step (s.setSched [.whole .p1])) ∧
    (s.ready .p0 = false → s.ready .p1 = false → step s = .next s)

/-- A bus command issued while the other port holds the bus waits before its first segment, with no effect (20_memory.md, 3,
R73): in a whole run, and where a port accepts it in a turn of either grain. A turn of either grain leaves it waiting while
the bus is held; once the bus is free, a whole turn runs it, and an atomic turn runs its first segment (log 7, log 16). -/
def Obligations.BusyBusMakesCommandsWait : Prop :=
  (∀ (i : Instr) (s : State), drivesBus i = true → i.wellFormed = true → s.busHeld = true →
    exec i s = .next (s.setPort s.cur { s.port s.cur with busy := .waiting i })) ∧
  (∀ s p whole w q rest i, Accepts s p whole w q rest → decode w = .ok i → drivesBus i = true → i.wellFormed = true →
    (∃ f, (s.port p.other).busy = .running f) →
    step s = .next ((accepted s p q rest).setPort p { queue := q, busy := .waiting i })) ∧
  (∀ (s : State) (p : Port) (whole : Bool) (i : Instr) (rest : List Turn), s.faulted = none →
    s.env.sched = turn whole p :: rest → (s.port p).busy = .waiting i →
    let s1 := accepted s p (s.port p).queue rest
    ((∃ f, (s.port p.other).busy = .running f) → step s = .next (s.setSched rest)) ∧
    ((∀ f, (s.port p.other).busy ≠ .running f) →
      (whole = true ∨ drivesBus i = false ∨ i.wellFormed = false → step s = exec i s1) ∧
      (whole = false → drivesBus i = true → i.wellFormed = true →
        ∃ ops, busProgram i = some ops ∧ step s = .next (advance (Flight.start ops) s1))))

/-- A bus command run one atomic action at a time, with nothing in between, segment by segment and phase by phase on the
pins, ends in the state its whole run gives (00_scope.md R6: the same observations at the three levels). -/
def Obligations.SegmentedRunEndsAsWholeRun : Prop :=
  ∀ (s : State) (p : Port) (w : Cmd) (q : List Cmd) (rest : List Turn) (i : Instr), s.faulted = none → s.seq = none → (s.port p).busy = .idle →
    (∀ f, (s.port p.other).busy ≠ .running f) → (s.port p).queue = w :: q → decode w = .ok i →
    drivesBus i = true → i.wellFormed = true →
    ∃ n, Host.Core.run Sys2Proof.core n (s.setSched (List.replicate n (Turn.atom p) ++ rest)) =
      step (s.setSched (.whole p :: rest))

/-! ## Reset and FAULTED -/

/-- The reset state of every register (R261). -/
def Obligations.ResetStateIsAsSpecified : Prop :=
  let r := State.reset
  (r.rx.curFreq = 0 ∧ r.rx.retuned = false ∧ r.rx.retuneTs = 0 ∧ r.rx.pwrDown = false) ∧
  (r.pins.sel = !Config.selActive ∧ r.pins.clk = false ∧ r.pins.data = false ∧ r.pins.dataOe = true) ∧
  r.seq = none ∧
  (r.kf.init = false ∧ r.kf.est = 0 ∧ r.kf.cov = 0 ∧ r.kf.mnoise = 0 ∧ r.kf.pnoise = 0) ∧
  (r.ld.state = .stopped ∧ r.ld.state.code = 0 ∧ r.ld.rssiCur = 0 ∧ r.ld.lapCur = 0 ∧ r.ld.lapAvail = false) ∧
  (r.ld.peak = 0 ∧ r.ld.peakTs = 0 ∧ r.ld.lapStart = 0) ∧
  (r.cfg.minlap = 0 ∧ r.cfg.enter = 0 ∧ r.cfg.exit = 0 ∧ r.cfg.freq = 0) ∧
  (∀ j : Nat, Memory.read j r.ld.rssiRam = 0) ∧ (∀ j : Nat, Memory.read j r.ld.lapRam = 0) ∧
  safe r = true

/-- A reset abandons the commands in flight without a response, leaves FAULTED, sets every register and both RAMs to their
reset values, drives the idle levels and outputs nothing; both ports accept commands at once (R260). That the words the host
has presented stay on its queues is the model's choice (log 9). -/
def Obligations.ResetTurnRestoresEveryRegister : Prop :=
  ∀ (s : State) (rest : List Turn), s.env.sched = .reset :: rest →
    ∃ t, step s = .next t ∧ t.rx = State.reset.rx ∧ t.pins = idle ∧ t.seq = none ∧ t.kf = State.reset.kf ∧
      t.ld = State.reset.ld ∧ t.cfg = State.reset.cfg ∧ t.faulted = none ∧
      t.p0 = { queue := s.p0.queue, busy := .idle } ∧ t.p1 = { queue := s.p1.queue, busy := .idle } ∧
      t.trace = s.trace ∧ t.env = { s.env with sched := rest } ∧ t.busWaits = s.busWaits ∧
      (∀ p, t.ready p = !(s.port p).queue.isEmpty)

/-- In FAULTED neither port accepts anything and nothing changes; only a reset leaves it (60_exceptions.md, 2). That a step
with no turn left answers the fault is the model's choice (log 8). -/
def Obligations.FaultedBlockAcceptsNothing : Prop :=
  ∀ (s : State) (f : Fault), s.faulted = some f →
    (∀ p rest, s.env.sched = .whole p :: rest → step s = .next (s.setSched rest)) ∧
    (∀ p rest, s.env.sched = .atom p :: rest → step s = .next (s.setSched rest)) ∧
    (∀ rest, s.env.sched = .reset :: rest → ∃ t, step s = .next t ∧ t.faulted = none) ∧
    (s.env.sched = [] → step s = .fault f)

/-- A filter step with a zero denominator enters FAULTED before any state is written: no response, the pins idle, and only
the draw `LD_UPDATE` has taken is consumed (R164, R244; that `SEQ` is idle with the pins is the model's choice, log 8). -/
def Obligations.ZeroDenominatorEntersFaulted : Prop :=
  ∀ s : State, s.kf.init = true → s.kf.cov = 0 → s.kf.pnoise = 0 → s.kf.mnoise = 0 →
    let t := { s with faulted := some (.filterDivZero s.cur), pins := idle, seq := none }
    (∀ m, exec (.kfFilter m) s = .next t) ∧
    (∀ now, s.rx.retuned = true → exec (.ldUpdate now) s = .next t) ∧
    (∀ now, s.rx.retuned = false → exec (.ldUpdate now) s =
      .next { t with env := { s.env with adcIn := s.env.adcIn.tail, adcDraws := s.env.adcDraws + 1 } })

/-- FAULTED is entered only by `KF_FILTER` and `LD_UPDATE`, at a non-seeding step with `KF_COV` = `KF_PNOISE` = `KF_MNOISE`
= 0 (R244). -/
def Obligations.FaultedOnlyByZeroDenominator : Prop :=
  ∀ (i : Instr) (s t : State), exec i s = .next t → t.faulted ≠ s.faulted →
    ((∃ m, i = .kfFilter m) ∨ (∃ now, i = .ldUpdate now)) ∧
    s.kf.init = true ∧ s.kf.cov = 0 ∧ s.kf.pnoise = 0 ∧ s.kf.mnoise = 0

/-- `exec` of every command answers a next state in every state: the block has no trap and no other fault (R245, R248). That
FAULTED is such a next state is the model's choice (log 8), and so is a command left waiting for the bus (R73, log 7): neither
is completion. Where each command completes, its result statement says. -/
def Obligations.EveryCommandAnswersNext : Prop := ∀ (i : Instr) (s : State), ∃ t, exec i s = .next t

/-! ## Receiver -/

/-- The register encoder (R112). -/
def Obligations.RegisterEncoderFormula : Prop :=
  (∀ f : Mhz, 479 ≤ f.toNat → f.toNat ≤ 33246 →
    let tf := (f.toNat - 479) / 2
    tf ≤ 16383 ∧ (encodeFreq f).toNat = (tf / 32) * 2 ^ 7 + tf % 32 ∧
    ((encodeFreq f).extractLsb' 7 9).toNat = tf / 32 ∧ (encodeFreq f).extractLsb' 5 2 = 0 ∧
    ((encodeFreq f).extractLsb' 0 5).toNat = tf % 32) ∧
  encodeFreq 5800 = 0x2984

/-- The encoder's properties (40_receiver.md, 1): frequencies of one pair share a value, the encoder is monotone, and its
largest value is 0xFF9F. -/
def Obligations.RegisterEncoderProperties : Prop :=
  (∀ f g : Mhz, 479 ≤ f.toNat → g.toNat ≤ 33246 → g.toNat = f.toNat + 1 → (f.toNat - 479) % 2 = 0 →
    encodeFreq f = encodeFreq g) ∧
  (∀ f g : Mhz, 479 ≤ f.toNat → f.toNat ≤ g.toNat → g.toNat ≤ 33246 → (encodeFreq f).toNat ≤ (encodeFreq g).toNat) ∧
  encodeFreq 33246 = 0xFF9F ∧ encodeFreq 1111 = 0x049C

/-- The frame layout (R115): 25 cells, the address first, then R/W (1 write, 0 read), then the data, each least significant
bit first; the register value in the first 16 data cells of a tuning frame and padding zeros after it. -/
def Obligations.FrameLayout : Prop :=
  (∀ (a : BusAddr) (d : BusData),
    (BusFrame.write a d).word.toNat = a.toNat + 1 * 2 ^ 4 + d.toNat * 2 ^ 5 ∧
    (BusFrame.read a d).word.toNat = a.toNat + 0 * 2 ^ 4 + d.toNat * 2 ^ 5 ∧
    (BusFrame.write a d).cells[4]? = some true ∧ (BusFrame.read a d).cells[4]? = some false ∧
    ∀ f ∈ [BusFrame.write a d, BusFrame.read a d],
      f.cells.length = 25 ∧ (∀ k, k < 25 → f.cells[k]? = some (f.word.getLsbD k)) ∧
      (∀ k, k < 4 → f.cells[k]? = some (a.getLsbD k)) ∧ (∀ k, k < 20 → f.cells[5 + k]? = some (d.getLsbD k))) ∧
  (∀ f : Mhz,
    (∀ k, k < 16 → (BusFrame.write 0x1 (tuneData f)).cells[5 + k]? = some ((encodeFreq f).getLsbD k)) ∧
    (∀ k, k < 4 → (BusFrame.write 0x1 (tuneData f)).cells[21 + k]? = some false)) ∧
  (BusFrame.write 0x1 (tuneData 5800)).word = 0x53091 ∧
  (BusFrame.write 0x1 (tuneData 5800)).cells.map Bool.toNat =
    [1, 0, 0, 0, 1, 0, 0, 1, 0, 0, 0, 0, 1, 1, 0, 0, 1, 0, 1, 0, 0, 0, 0, 0, 0]

/-- `RX_INIT` (40_receiver.md, 4): the wake frame, the power-down frame, and the module marked down. Everything else is
unchanged. -/
def Obligations.RxInitResult : Prop :=
  ∀ s : State, s.busHeld = false →
    exec .rxInit s = .next { s with
      rx := { s.rx with curFreq := 1111, pwrDown := true }
      pins := idle
      trace := s.trace ++ [.frame (.write 0xF 0x00000), .frame (.write 0xA 0xFFFFF), .rsp s.cur ⟨.ok, 0⟩]
      busWaits := s.busWaits + 150 }

/-- `RX_SETFREQ` on the tuning path (40_receiver.md, 3 and 4): the wake frame first if the module is down, then the tuning
frame; `RETUNED` is armed with `now`. Everything else is unchanged. -/
def Obligations.RxSetfreqTunes : Prop :=
  ∀ (f : Mhz) (now : Ms) (s : State), s.busHeld = false → 479 ≤ f.toNat → f.toNat ≤ 33246 → f ≠ 1111 →
    exec (.rxSetfreq f now) s = .next { s with
      rx := { curFreq := f, retuned := true, retuneTs := now, pwrDown := false }
      pins := afterWrite s.pins
      trace := s.trace ++ ((if s.rx.pwrDown then [Obs.frame (.write 0xF 0x00000)] else []) ++
        [.frame (.write 0x1 ((encodeFreq f).setWidth 20)), .rsp s.cur ⟨.ok, 0⟩])
      busWaits := s.busWaits + (if s.rx.pwrDown then 150 else 75) }

/-- `RX_SETFREQ` of the sentinel (40_receiver.md, 3 and 4): the power-down frame, `RETUNED` and `RETUNE_TS` unchanged. -/
def Obligations.RxSetfreqPowersDown : Prop :=
  ∀ (now : Ms) (s : State), s.busHeld = false →
    exec (.rxSetfreq 1111 now) s = .next { s with
      rx := { s.rx with curFreq := 1111, pwrDown := true }
      pins := afterWrite s.pins
      trace := s.trace ++ [.frame (.write 0xA 0xFFFFF), .rsp s.cur ⟨.ok, 0⟩]
      busWaits := s.busWaits + 75 }

/-- `RX_HFC` with a due change retunes and never settles in the same command (40_receiver.md, 4). -/
def Obligations.RxHfcRetunes : Prop :=
  ∀ (f : Mhz) (now : Ms) (s : State), s.busHeld = false → 479 ≤ f.toNat → f.toNat ≤ 33246 → f ≠ 1111 →
    f ≠ s.rx.curFreq → 30 ≤ (now - s.rx.retuneTs).toNat →
    exec (.rxHfc f now) s = .next { s with
      rx := { curFreq := f, retuned := true, retuneTs := now, pwrDown := false }
      pins := afterWrite s.pins
      trace := s.trace ++ ((if s.rx.pwrDown then [Obs.frame (.write 0xF 0x00000)] else []) ++
        [.frame (.write 0x1 ((encodeFreq f).setWidth 20)), .rsp s.cur ⟨.ok, 0x1⟩])
      busWaits := s.busWaits + (if s.rx.pwrDown then 150 else 75) }

/-- `RX_HFC` with a due change to the sentinel powers the module down; the timestamp is not re-armed, so the settle test
may pass in the same command, without a read-back (40_receiver.md, 4). -/
def Obligations.RxHfcPowersDown : Prop :=
  ∀ (now : Ms) (s : State), s.busHeld = false → 1111 ≠ s.rx.curFreq → 30 ≤ (now - s.rx.retuneTs).toNat →
    let settles : Bool := s.rx.retuned && decide (35 ≤ (now - s.rx.retuneTs).toNat)
    exec (.rxHfc 1111 now) s = .next { s with
      rx := { s.rx with curFreq := 1111, pwrDown := true, retuned := s.rx.retuned && !settles }
      pins := afterWrite s.pins
      trace := s.trace ++ [.frame (.write 0xA 0xFFFFF), .rsp s.cur ⟨.ok, if settles then 0x3 else 0x1⟩]
      busWaits := s.busWaits + 75 }

/-- `RX_HFC` that settles clears `RETUNED`, and verifies by a read-back frame exactly when the parameter says so and the
module is up; a mismatch is only reported (40_receiver.md, 4). -/
def Obligations.RxHfcSettles : Prop :=
  ∀ (now : Ms) (s : State), s.busHeld = false → admitted s.rx.curFreq = true → s.rx.retuned = true →
    35 ≤ (now - s.rx.retuneTs).toNat →
    ((s.env.verifyReadback = false ∨ s.rx.pwrDown = true) →
      exec (.rxHfc s.rx.curFreq now) s = .next { s with
        rx := { s.rx with retuned := false }
        trace := s.trace ++ [.rsp s.cur ⟨.ok, 0x2⟩] }) ∧
    (s.env.verifyReadback = true → s.rx.pwrDown = false →
      let rb := s.env.nextRead
      exec (.rxHfc s.rx.curFreq now) s = .next { s with
        rx := { s.rx with retuned := false }
        pins := idle
        env := { s.env with readIn := s.env.readIn.tail, readDraws := s.env.readDraws + 1 }
        trace := s.trace ++ [.frame (.read 0x1 rb), .rsp s.cur ⟨.ok,
          0x6 ||| rb.setWidth 32 <<< 4 ||| (if rb = (encodeFreq s.rx.curFreq).setWidth 20 then 0 else 0x8)⟩]
        busWaits := s.busWaits + 75 })

/-- `RX_HFC` with no due change and no due settling only answers 0 (40_receiver.md, 4). -/
def Obligations.RxHfcChangesNothing : Prop :=
  ∀ (f : Mhz) (now : Ms) (s : State), s.busHeld = false → admitted f = true →
    (f = s.rx.curFreq ∨ (now - s.rx.retuneTs).toNat < 30) →
    (s.rx.retuned = false ∨ (now - s.rx.retuneTs).toNat < 35) →
    exec (.rxHfc f now) s = .next { s with trace := s.trace ++ [.rsp s.cur ⟨.ok, 0⟩] }

/-- The report word of `RX_HFC` (R127): the `VALUE` it answers, and what each of its bits says. RETUNE: H1 ran `SetFreqCore`.
SETTLED: H2 cleared `RETUNED`. VERIFIED: a read-back frame was sent, READBACK the 20 bits it read. MISMATCH: they differ from
the expected encoding. -/
def Obligations.ReportWordFields : Prop :=
  ∀ (f : Mhz) (now : Ms) (s : State), s.busHeld = false → admitted f = true →
    ∃ (s1 t : State) (r : BitVec 32),
      exec (.rxHfc f now) s = .next (t.respond .ok r) ∧
      s1 = (if r.getLsbD 0 then setFreqCore f now s else s) ∧
      r.getLsbD 0 = (decide (f ≠ s.rx.curFreq) && decide (30 ≤ (now - s.rx.retuneTs).toNat)) ∧
      r.getLsbD 1 = (s1.rx.retuned && !t.rx.retuned) ∧
      r.getLsbD 2 = (r.getLsbD 1 && s.env.verifyReadback && !s1.rx.pwrDown) ∧
      t.trace = s1.trace ++ (if r.getLsbD 2 then [.frame (.read 0x1 s.env.nextRead)] else []) ∧
      r.getLsbD 3 = (r.getLsbD 2 && decide (s.env.nextRead ≠ (encodeFreq s1.rx.curFreq).setWidth 20)) ∧
      r.extractLsb' 4 20 = (if r.getLsbD 2 then s.env.nextRead else 0) ∧
      r.extractLsb' 24 8 = 0

/-- The bus-quiet and settle tests are on the wrap-safe elapsed time, at least 30 ms and at least 35 ms (R123, R124). -/
def Obligations.TimeGuardsWrap : Prop :=
  ∀ (now : Ms) (r : Rxd),
    let e := (now.toNat + 2 ^ 32 - r.retuneTs.toNat) % 2 ^ 32
    (quietOk now r = true ↔ 30 ≤ e) ∧ (settleOk now r = true ↔ 35 ≤ e)

/-- `RX_READRSSI` answers `ReadRssi()` (R134): 0 with no draw while `RETUNED` = 1, else the sample clamped to 2047 and
shifted right by 3, with one draw. Nothing else changes. -/
def Obligations.ReadRssiResult : Prop :=
  (∀ s : State, s.rx.retuned = true →
    readRssi s = 0 ∧ exec .rxReadrssi s = .next { s with trace := s.trace ++ [.rsp s.cur ⟨.ok, 0⟩] }) ∧
  (∀ s : State, s.rx.retuned = false →
    (readRssi s).toNat = min s.env.nextAdc.toNat 2047 / 8 ∧
    exec .rxReadrssi s = .next { s with
      env := { s.env with adcIn := s.env.adcIn.tail, adcDraws := s.env.adcDraws + 1 }
      trace := s.trace ++ [.rsp s.cur ⟨.ok, BitVec.ofNat 32 (min s.env.nextAdc.toNat 2047 / 8)⟩] })

/-- The sequencer drives a frame phase by phase (40_receiver.md, 2): from idle pins it selects the module and sets the first
cell up; each cell is set up, clocked high, clocked low; after the last cell the pins are idle again and the frame is out.
Each move but the first spends one `T_BIT` wait. Two things here are the model's and not the spec's: the level 0 that `pinsAt`
gives DATA in the released data cells of a read frame (log 12), and what a position of `SEQ` means, idle between two frames
(log 20). -/
def Obligations.SequencerDrivesEachPhase : Prop :=
  ∀ (s : State) (f : Flight) (r : FrameReq) (rest : List BusOp), f.todo = .frame r :: rest →
    let t := advance f s
    (s.seq = none → s.pins = idle →
      t.seq = some ⟨f.frames, 0, .setup⟩ ∧ t.pins = pinsAt r 0 .setup ∧ t.trace = s.trace) ∧
    (∀ n b, s.seq = some ⟨n, b, .setup⟩ → s.pins = pinsAt r b .setup →
      t.seq = some ⟨n, b, .high⟩ ∧ t.pins = pinsAt r b .high ∧ t.busWaits = s.busWaits + 1 ∧ t.trace = s.trace) ∧
    (∀ n b, s.seq = some ⟨n, b, .high⟩ → s.pins = pinsAt r b .high →
      t.seq = some ⟨n, b, .low⟩ ∧ t.pins = pinsAt r b .low ∧ t.busWaits = s.busWaits + 1 ∧ t.trace = s.trace) ∧
    (∀ n (b b' : Fin 25), b'.val = b.val + 1 → s.seq = some ⟨n, b, .low⟩ → s.pins = pinsAt r b .low →
      t.seq = some ⟨n, b', .setup⟩ ∧ t.pins = pinsAt r b' .setup ∧ t.busWaits = s.busWaits + 1 ∧ t.trace = s.trace) ∧
    (∀ n, s.seq = some ⟨n, 24, .low⟩ → s.pins = pinsAt r 24 .low →
      t.seq = none ∧ t.pins = idle ∧ t.busWaits = s.busWaits + 1 ∧
      t.trace = s.trace ++ [.frame (match r with | .write a d => .write a d | .read a => .read a f.rb)] ∧
      (t.port s.cur).busy = .running { f with todo := rest, frames := f.frames + 1 })

/-! ## Filter -/

/-- `KF_FILTER` steps the filter and answers the new estimate; nothing else changes (41_filter.md, 1). -/
def Obligations.KfFilterResult : Prop :=
  ∀ (m : Rssi) (s : State), stepDefined s.kf →
    ∃ k, filterStep m s.kf = some k ∧
      exec (.kfFilter m) s = .next { s with kf := k, trace := s.trace ++ [.rsp s.cur ⟨.ok, k.est⟩] }

/-- The filter step (R160): the seed, the zero denominator, and the recursive step on exact integers. -/
def Obligations.FilterStepRule : Prop :=
  (∀ (m : Rssi) (k : Kf), k.init = false →
    filterStep m k = some { k with init := true, est := m.setWidth 32 <<< 16, cov := k.mnoise }) ∧
  (∀ (m : Rssi) (k : Kf), k.init = true →
    let pcov := k.cov.toNat + k.pnoise.toNat
    let den := pcov + k.mnoise.toNat
    (den = 0 → filterStep m k = none) ∧
    (den ≠ 0 →
      let g := (pcov <<< 16) / den
      let d : Int := ((m.toNat <<< 16 : Nat) : Int) - k.est.toInt
      filterStep m k = some { k with
        est := BitVec.ofInt 32 (k.est.toInt + ((g : Int) * d) >>> (16 : Nat))
        cov := BitVec.ofNat 32 ((pcov * (65536 - g)) >>> 16) })) ∧
  filterStep 255 { init := true, est := 0, cov := 0x10000, mnoise := 0x10000, pnoise := 0x10000 } =
    some { init := true, est := 0x00A9FF56, cov := 0xAAAC, mnoise := 0x10000, pnoise := 0x10000 }

/-- The bounds of the filter (41_filter.md, 1): the gain is at most 1.0, and 1.0 exactly when the measurement noise is 0
and the predicted covariance is not; the new estimate lies between the old one and the measurement, so it stays in 0..255;
the covariance and every intermediate stay in their ranges. -/
def Obligations.FilterBounds : Prop :=
  ∀ (m : Rssi) (k k' : Kf), filterOk k = true → filterStep m k = some k' →
    filterOk k' = true ∧ k'.init = true ∧
    0 ≤ k'.est.toInt ∧ k'.est.toInt ≤ 255 * 2 ^ 16 ∧
    k.gain ≤ 65536 ∧ (k.gain = 65536 ↔ k.mnoise = 0 ∧ 0 < k.pcov) ∧
    k.pcov < 2 ^ 30 ∧ k.den < 2 ^ 31 ∧
    (k.init = true →
      k'.est.toInt = k.nextEst m ∧ k'.cov.toNat = k.nextCov ∧ k.nextCov ≤ k.mnoise.toNat + k.pcov / 2 ^ 16 + 1 ∧
      min k.est.toInt (m.toNat * 2 ^ 16) ≤ k'.est.toInt ∧ k'.est.toInt ≤ max k.est.toInt (m.toNat * 2 ^ 16))

/-- With no measurement noise and some process noise the filter is the identity (41_filter.md, 1, R164): every step gives
the measurement, and the covariance becomes 0. -/
def Obligations.IdentityFilter : Prop :=
  ∀ (m : Rssi) (k : Kf), k.mnoise = 0 → k.pnoise ≠ 0 →
    filterStep m k = some { k with init := true, est := m.setWidth 32 <<< 16, cov := 0 } ∧
    round8 (m.setWidth 32 <<< 16) = m

/-- `Round8` is the nearest integer, ties up, and loses no bit over the estimate's range (R162). -/
def Obligations.Round8IsNearest : Prop :=
  (∀ e : Q16, round8 e = BitVec.ofInt 8 ((e.toInt + 0x8000) >>> (16 : Nat))) ∧
  (∀ e : Q16, 0 ≤ e.toInt → e.toInt ≤ 255 * 2 ^ 16 →
    ((round8 e).toNat : Int) * 2 ^ 16 ≤ e.toInt + 0x8000 ∧ e.toInt + 0x8000 < ((round8 e).toNat + 1 : Int) * 2 ^ 16) ∧
  round8 0x7FFF = 0 ∧ round8 0x8000 = 1 ∧ round8 0x18000 = 2 ∧ round8 0xFF0000 = 255 ∧ round8 0xFF7FFF = 255

/-- The two noise writes (41_filter.md, 2): one register, and never the estimate, the covariance or `KF_INIT`. A value of
2^28 or more is a field error. -/
def Obligations.NoiseWritesResult : Prop :=
  (∀ (v : BitVec 28) (s : State),
    exec (.kfSetmnoise v) s = .next { s with
      kf := { s.kf with mnoise := v.setWidth 32 }, trace := s.trace ++ [.rsp s.cur ⟨.ok, 0⟩] } ∧
    exec (.kfSetpnoise v) s = .next { s with
      kf := { s.kf with pnoise := v.setWidth 32 }, trace := s.trace ++ [.rsp s.cur ⟨.ok, 0⟩] }) ∧
  (∀ v : BitVec 32, 2 ^ 28 ≤ v.toNat →
    decode (pack 0x21 0 v) = .error .illegalField ∧ decode (pack 0x22 0 v) = .error .illegalField)

/-! ## Detector -/

/-- `LD_START` (42_detector.md, 3): Stopped to Waiting with the counters and the peak cleared; ignored elsewhere. -/
def Obligations.LdStartResult : Prop :=
  (∀ s : State, s.ld.state = .stopped →
    exec .ldStart s = .next { s with
      ld := { s.ld with state := .waiting, lapCur := 0, lapAvail := false, peak := 0, peakTs := 0 }
      trace := s.trace ++ [.notify .start, .rsp s.cur ⟨.ok, 1⟩] }) ∧
  (∀ s : State, s.ld.state ≠ .stopped →
    exec .ldStart s = .next { s with trace := s.trace ++ [.rsp s.cur ⟨.ok, 0⟩] })

/-- `LD_STOP` (42_detector.md, 3): both RAMs all zero, both cursors 0, the peak and the mailbox cleared, `LAP_START` and the
filter untouched, STOP on every call. It is idempotent in state. -/
def Obligations.LdStopResult : Prop :=
  ∀ s : State, ∃ t, exec .ldStop s = .next t ∧
    t.ld.state = .stopped ∧ (∀ j, Memory.read j t.ld.rssiRam = 0) ∧ (∀ j, Memory.read j t.ld.lapRam = 0) ∧
    t.ld.rssiCur = 0 ∧ t.ld.lapCur = 0 ∧ t.ld.lapAvail = false ∧ t.ld.peak = 0 ∧ t.ld.peakTs = 0 ∧
    t = { s with ld := t.ld, trace := s.trace ++ [.notify .stop, .rsp s.cur ⟨.ok, 0⟩] } ∧
    t.ld.lapStart = s.ld.lapStart ∧
    exec .ldStop t = .next { t with trace := t.trace ++ [.notify .stop, .rsp s.cur ⟨.ok, 0⟩] }

/-- `LD_UPDATE` (42_detector.md, 2 and 3): the sample path in every state, then the row of the lifecycle table that applies.
Nothing else changes. -/
def Obligations.LdUpdateTick : Prop :=
  ∀ (now : Ms) (s : State), stepDefined s.kf →
    ∃ k, filterStep (readRssi s) s.kf = some k ∧
      let smp := round8 k.est
      let l := { s.ld with
        rssiRam := Memory.write s.ld.rssiCur.val smp s.ld.rssiRam, rssiCur := s.ld.rssiCur + 1 }
      let raised : Bool := decide (s.cfg.enter ≤ smp) && decide (s.ld.peak < smp)
      let peak := if raised then smp else s.ld.peak
      let apex := if raised then now else s.ld.peakTs
      let capture : Bool := decide (smp < peak) && decide (smp < s.cfg.exit)
      let gate : Bool := decide (s.cfg.minlap < now - s.ld.lapStart)
      let tick (l' : Ld) (events : List Obs) : Host.Outcome State Fault Refusal := .next { s with
        kf := k
        ld := l'
        env := if s.rx.retuned then s.env
          else { s.env with adcIn := s.env.adcIn.tail, adcDraws := s.env.adcDraws + 1 }
        trace := s.trace ++ (events ++ [.rsp s.cur ⟨.ok, smp.setWidth 32⟩]) }
      (s.ld.state = .stopped → exec (.ldUpdate now) s = tick l []) ∧
      (s.ld.state = .waiting → capture = true →
        exec (.ldUpdate now) s =
          tick { l with state := .running, lapStart := apex, peak := 0, peakTs := 0 } [.notify .lapStart]) ∧
      (s.ld.state = .waiting → capture = false →
        exec (.ldUpdate now) s = tick { l with peak := peak, peakTs := apex } []) ∧
      (s.ld.state = .running → gate = true → capture = true →
        exec (.ldUpdate now) s =
          tick { l with
            lapRam := Memory.write s.ld.lapCur.val (apex - s.ld.lapStart) s.ld.lapRam
            lapCur := s.ld.lapCur + 1
            lapAvail := true
            lapStart := apex
            peak := 0
            peakTs := 0 } [.notify .lapStart]) ∧
      (s.ld.state = .running → gate = true → capture = false →
        exec (.ldUpdate now) s = tick { l with peak := peak, peakTs := apex } []) ∧
      (s.ld.state = .running → gate = false → exec (.ldUpdate now) s = tick l [])

/-- The RSSI ring (R61): a tick writes its sample, the `VALUE` it answers, at the cursor, leaves every other entry, and
moves the cursor on mod 100; the most recent write is then at `(RSSI_CUR + 99) mod 100`. -/
def Obligations.SampleRingWrite : Prop :=
  ∀ (now : Ms) (s : State), stepDefined s.kf → Memory.wf 100 s.ld.rssiRam = true →
    ∃ (t : State) (smp : Rssi), exec (.ldUpdate now) s = .next t ∧
      t.trace.getLast? = some (.rsp s.cur ⟨.ok, smp.setWidth 32⟩) ∧
      Memory.read s.ld.rssiCur.val t.ld.rssiRam = smp ∧
      (∀ j, j ≠ s.ld.rssiCur.val → Memory.read j t.ld.rssiRam = Memory.read j s.ld.rssiRam) ∧
      t.ld.rssiCur.val = (s.ld.rssiCur.val + 1) % 100 ∧
      Memory.read ((t.ld.rssiCur.val + 99) % 100) t.ld.rssiRam = smp ∧ t.ld.newestSample = smp

/-- The lap ring (R63): `FinishLap` writes the wrap-safe duration at the cursor, leaves every other entry, moves the cursor
on mod 50; the newest lap is at `(LAP_CUR + 49) mod 50`, slot 49 when the cursor is 0. -/
def Obligations.LapRingWrite : Prop :=
  (∀ l : Ld, Memory.wf 50 l.lapRam = true →
    let l' := l.finishLap
    Memory.read l.lapCur.val l'.lapRam = l.peakTs - l.lapStart ∧
    (∀ j, j ≠ l.lapCur.val → Memory.read j l'.lapRam = Memory.read j l.lapRam) ∧
    l'.lapCur.val = (l.lapCur.val + 1) % 50 ∧ l'.newestLap = l.peakTs - l.lapStart) ∧
  (∀ l : Ld, l.newestLap = Memory.read ((l.lapCur.val + 49) % 50) l.lapRam) ∧
  (∀ l : Ld, l.lapCur = 0 → l.newestLap = Memory.read 49 l.lapRam)

/-- The peak step and the capture test (R180, R181): unsigned comparisons; a sample equal to the peak does not move the
timestamp; a sample of 0 is never the peak; without a peak nothing is captured; a sample that raises the peak does not
capture, whichever is done first. -/
def Obligations.PeakCaptureRule : Prop :=
  ∀ (smp : Rssi) (now : Ms) (c : Cfg) (l : Ld),
    (c.enter.toNat ≤ smp.toNat → l.peak.toNat < smp.toNat → l.peakStep smp now c = { l with peak := smp, peakTs := now }) ∧
    (¬ (c.enter.toNat ≤ smp.toNat ∧ l.peak.toNat < smp.toNat) → l.peakStep smp now c = l) ∧
    (smp = l.peak → (l.peakStep smp now c).peakTs = l.peakTs) ∧
    (l.peakStep 0 now c = l) ∧
    (captured smp c l = true ↔ smp.toNat < l.peak.toNat ∧ smp.toNat < c.exit.toNat) ∧
    (l.peak = 0 → captured smp c l = false) ∧
    (captured smp c (l.peakStep smp now c) = captured smp c l)

/-- A lap's duration is exact in the times of its two apexes, mod 2^32 (42_detector.md, 3 and 4): the tick that captures the
second peak puts `apex - LAP_START` in the ring, and `LD_GETLAP` answers it. -/
def Obligations.LapDurationExact : Prop :=
  ∀ (now : Ms) (s : State) (k : Kf), Memory.wf 50 s.ld.lapRam = true → filterStep (readRssi s) s.kf = some k →
    s.ld.state = .running → s.cfg.minlap < now - s.ld.lapStart →
    round8 k.est < s.ld.peak → round8 k.est < s.cfg.exit →
    ∃ t u, exec (.ldUpdate now) s = .next t ∧ t.ld.lapStart = s.ld.peakTs ∧ t.ld.lapAvail = true ∧
      exec .ldGetlap t = .next u ∧
      u.trace = t.trace ++ [.rsp s.cur ⟨.ok, s.ld.peakTs - s.ld.lapStart⟩]

/-- The detector's three reads (42_detector.md, 3): the newest sample, the newest lap with the mailbox cleared, and the
mailbox flag. A second `LD_GETLAP` answers the same lap, and `LD_ISLAPAVAIL` then answers 0. -/
def Obligations.DetectorReads : Prop :=
  ∀ s : State,
    exec .ldGetrssi s = .next { s with trace := s.trace ++
      [.rsp s.cur ⟨.ok, (Memory.read ((s.ld.rssiCur.val + 99) % 100) s.ld.rssiRam).setWidth 32⟩] } ∧
    exec .ldIslapavail s = .next { s with trace := s.trace ++ [.rsp s.cur ⟨.ok, if s.ld.lapAvail then 1 else 0⟩] } ∧
    (let v := Memory.read ((s.ld.lapCur.val + 49) % 50) s.ld.lapRam
     let t := { s with ld := { s.ld with lapAvail := false }, trace := s.trace ++ [.rsp s.cur ⟨.ok, v⟩] }
     exec .ldGetlap s = .next t ∧
     exec .ldGetlap t = .next { t with trace := t.trace ++ [.rsp s.cur ⟨.ok, v⟩] } ∧
     exec .ldIslapavail t = .next { t with trace := t.trace ++ [.rsp s.cur ⟨.ok, 0⟩] })

/-- Degenerate thresholds (R211): with `CFG_EXIT` = 0 nothing is ever captured; with `CFG_ENTER` = 255 only a sample of 255
can be a peak; with an inverted pair any dip below the peak and `CFG_EXIT` captures, even one at or above `CFG_ENTER`. -/
def Obligations.DegenerateThresholds : Prop :=
  (∀ (smp : Rssi) (c : Cfg) (l : Ld), c.exit = 0 → captured smp c l = false) ∧
  (∀ (smp : Rssi) (now : Ms) (c : Cfg) (l : Ld), c.enter = 255 → (l.peakStep smp now c).peak ≠ l.peak → smp = 255) ∧
  (∀ (smp : Rssi) (c : Cfg) (l : Ld), c.enter < c.exit → c.enter ≤ smp → smp < l.peak → smp < c.exit → captured smp c l = true) ∧
  (∀ (now : Ms) (s t : State), exec (.ldUpdate now) s = .next t → s.cfg.exit = 0 → t.ld.state = s.ld.state ∧ t.ld.lapRam = s.ld.lapRam)

/-! ## Configuration bank -/

/-- Each CFG command writes its one register whole and nothing else; `CFG_FREQ` does not tune the receiver
(43_config.md). -/
def Obligations.ConfigWritesResult : Prop :=
  ∀ s : State,
    let ok (c : Cfg) : Host.Outcome State Fault Refusal := .next { s with cfg := c, trace := s.trace ++ [.rsp s.cur ⟨.ok, 0⟩] }
    (∀ ms, exec (.cfgMinlap ms) s = ok { s.cfg with minlap := ms }) ∧
    (∀ v, exec (.cfgEnter v) s = ok { s.cfg with enter := v }) ∧
    (∀ v, exec (.cfgExit v) s = ok { s.cfg with exit := v }) ∧
    (∀ f : Mhz, (f = 1111 ∨ (479 ≤ f.toNat ∧ f.toNat ≤ 33246)) → exec (.cfgFreq f) s = ok { s.cfg with freq := f }) ∧
    (∀ f : Mhz, ¬ (f = 1111 ∨ (479 ≤ f.toNat ∧ f.toNat ≤ 33246)) →
      exec (.cfgFreq f) s = .next { s with trace := s.trace ++ [.rsp s.cur ⟨.illegalOperand, 0⟩] })

/-- No rule of the block reads `CFG_FREQ` (10_state.md R44): whatever value it holds, a command that does not write it does
the same. -/
def Obligations.ConfigFreqIsUnread : Prop :=
  ∀ (i : Instr) (s t : State) (x : Mhz), exec i s = .next t → (∀ f, i ≠ .cfgFreq f) →
    exec i { s with cfg := { s.cfg with freq := x } } = .next { t with cfg := { t.cfg with freq := x } }

/-! ## The whole machine -/

/-- Each register is written only by the commands the spec names for it (10_state.md, 2 to 6), and only the detector reaches
the RAMs (20_memory.md, 1). A tune to a frequency other than the sentinel is all that sets `RETUNED` or writes `RETUNE_TS`,
and `RX_HFC` all that clears `RETUNED`. The pins are driven by the bus commands, and else only by a fault, which idles them
(R26, R244; that `SEQ` is idle with them is log 8). A whole run leaves `SEQ` as it was. -/
def Obligations.EachRegisterHasItsWriters : Prop :=
  ∀ (i : Instr) (s t : State), exec i s = .next t →
    (drivesBus i = false → t.rx = s.rx ∧ t.busWaits = s.busWaits ∧ busFrames t.trace = busFrames s.trace) ∧
    (drivesBus i = false → t.pins = s.pins ∨ (t.faulted ≠ none ∧ t.pins = idle)) ∧
    (t.seq = s.seq ∨ (t.faulted ≠ none ∧ t.seq = none)) ∧
    ((∀ m, i ≠ .kfFilter m) → (∀ now, i ≠ .ldUpdate now) →
      t.seq = s.seq ∧ t.faulted = s.faulted ∧ (drivesBus i = false → t.pins = s.pins)) ∧
    ((∀ f now, i ≠ .rxHfc f now) → s.rx.retuned = true → t.rx.retuned = true) ∧
    ((∀ f now, f ≠ 1111 → i ≠ .rxSetfreq f now ∧ i ≠ .rxHfc f now) →
      t.rx.retuneTs = s.rx.retuneTs ∧ (t.rx.retuned = true → s.rx.retuned = true)) ∧
    ((∀ m, i ≠ .kfFilter m) → (∀ now, i ≠ .ldUpdate now) →
      t.kf.init = s.kf.init ∧ t.kf.est = s.kf.est ∧ t.kf.cov = s.kf.cov) ∧
    (s.kf.init = true → t.kf.init = true) ∧
    ((∀ v, i ≠ .kfSetmnoise v) → t.kf.mnoise = s.kf.mnoise) ∧
    ((∀ v, i ≠ .kfSetpnoise v) → t.kf.pnoise = s.kf.pnoise) ∧
    ((∀ now, i ≠ .ldUpdate now) → i ≠ .ldStart → i ≠ .ldStop →
      t.ld.state = s.ld.state ∧ t.ld.lapCur = s.ld.lapCur ∧ t.ld.peak = s.ld.peak ∧ t.ld.peakTs = s.ld.peakTs) ∧
    ((∀ now, i ≠ .ldUpdate now) → i ≠ .ldStart → i ≠ .ldStop → i ≠ .ldGetlap → t.ld = s.ld) ∧
    ((∀ now, i ≠ .ldUpdate now) → i ≠ .ldStop →
      t.ld.rssiCur = s.ld.rssiCur ∧ t.ld.rssiRam = s.ld.rssiRam ∧ t.ld.lapRam = s.ld.lapRam) ∧
    ((∀ now, i ≠ .ldUpdate now) → t.ld.lapStart = s.ld.lapStart ∧ (t.ld.lapAvail = true → s.ld.lapAvail = true)) ∧
    (i ≠ .ldStart → i ≠ .ldStop → i ≠ .ldGetlap → s.ld.lapAvail = true → t.ld.lapAvail = true) ∧
    ((∀ v, i ≠ .cfgMinlap v) → t.cfg.minlap = s.cfg.minlap) ∧
    ((∀ v, i ≠ .cfgEnter v) → t.cfg.enter = s.cfg.enter) ∧
    ((∀ v, i ≠ .cfgExit v) → t.cfg.exit = s.cfg.exit) ∧
    ((∀ v, i ≠ .cfgFreq v) → t.cfg.freq = s.cfg.freq) ∧
    t.env.verifyReadback = s.env.verifyReadback

/-- A command that completes answers exactly one response, on its own port, after its frames and events; one that faults or
waits for the bus answers none (30_encoding.md, 1 and 2, R84). -/
def Obligations.OneResponsePerCommand : Prop :=
  ∀ (i : Instr) (s t : State), s.faulted = none → (s.port s.cur).busy = .idle → exec i s = .next t →
    (t.faulted = none → (t.port s.cur).busy = .idle →
      ∃ r, t.trace.getLast? = some (.rsp s.cur r) ∧ responses t.trace = responses s.trace ++ [.rsp s.cur r]) ∧
    (t.faulted ≠ none ∨ (t.port s.cur).busy ≠ .idle → t.trace = s.trace)

/-- The notifier events (R250): START from an `LD_START` that takes Stopped to Waiting, STOP from every `LD_STOP`, LAPSTART
from every tick that starts a lap (R183, R186: a capture in Waiting, or in Running with the gate open), and no other; with
codes 1, 2 and 3. -/
def Obligations.NotifierEventsOfEachCommand : Prop :=
  (∀ (i : Instr) (s t : State), exec i s = .next t →
    (i = .ldStart → notifications t.trace =
      notifications s.trace ++ (if s.ld.state = .stopped then [.notify .start] else [])) ∧
    (i = .ldStop → notifications t.trace = notifications s.trace ++ [.notify .stop]) ∧
    (∀ now, i = .ldUpdate now → notifications t.trace =
      notifications s.trace ++ (if startsLap now s then [.notify .lapStart] else [])) ∧
    (i ≠ .ldStart → i ≠ .ldStop → (∀ now, i ≠ .ldUpdate now) → notifications t.trace = notifications s.trace)) ∧
  (∀ e : Event, e.code ≠ 0) ∧ Event.start.code = 1 ∧ Event.stop.code = 2 ∧ Event.lapStart.code = 3

/-- The codes of the outputs and of `LD_STATE` (R84, R34): `RSP34` is `STATUS` over `VALUE`. -/
def Obligations.OutputCodes : Prop :=
  (∀ r : Rsp, r.word.extractLsb' 0 32 = r.value ∧ r.word.extractLsb' 32 2 = r.status.code) ∧
  Status.ok.code = 0 ∧ Status.illegalOpcode.code = 1 ∧ Status.illegalField.code = 2 ∧ Status.illegalOperand.code = 3 ∧
  LdState.stopped.code = 0 ∧ LdState.waiting.code = 1 ∧ LdState.running.code = 2

/-! ## Invariants -/

/-- Every step keeps both RAMs canonical and within their capacities (20_memory.md, 1: no access can fall outside). -/
def Obligations.StepKeepsRamsCanonical : Prop :=
  ∀ (s t : State), step s = .next t → ramOk s.ld = true → ramOk t.ld = true

/-- Every step keeps the noise registers legal, the covariance below 2^29 and an initialised estimate in 0..255
(10_state.md, 8, item 5; 41_filter.md, 1). -/
def Obligations.StepKeepsFilterBounds : Prop :=
  ∀ (s t : State), step s = .next t → filterOk s.kf = true → filterOk t.kf = true

/-- Every step keeps: no peak, no peak time; Stopped, an empty lap ring; a full mailbox, Running (10_state.md, 8, items 6
to 8). -/
def Obligations.StepKeepsDetectorInvariants : Prop :=
  ∀ (s t : State), step s = .next t → detectorOk s.ld = true → detectorOk t.ld = true

/-- Every step keeps: one bus owner, and `PWR_DOWN` = 1 exactly when `CUR_FREQ` is the sentinel, `RETUNED` = 1 only with an
admitted `CUR_FREQ`, between commands and at the end of the command in flight (10_state.md, 8, items 3 and 4; 20_memory.md,
3). -/
def Obligations.StepKeepsBusAndReceiver : Prop :=
  ∀ (s t : State), step s = .next t → busOk s = true → busOk t = true

/-- Every step keeps the pins at the idle levels when `SEQ` is idle, and else at the levels of the cell and phase `SEQ`
names in the frame being sent, with one bus owner (10_state.md, 1 and 2; 40_receiver.md, 2). Two things here are the model's
and not the spec's: the level 0 of DATA in the released data cells of a read frame (`pinsAt`, log 12), and what a position of
`SEQ` means, idle between two frames (log 20). -/
def Obligations.StepKeepsPinsOnSequencer : Prop :=
  ∀ (s t : State), step s = .next t → busOwnerOk s = true → pinsOk s = true → busOwnerOk t = true ∧ pinsOk t = true

/-! ## Segments -/

/-- Each segment of a bus command is one atomic action on the registers R71 gives it, and a phase of a frame leaves every
register but the pins and `SEQ` alone, in any state, so whatever the other port does in between (R71, R120, R121, R125,
R126). S1 writes `CUR_FREQ` and leaves all the frames still to be sent; S2 follows the power-down or the wake frames, S3 the
tuning frame; H1 tests, H2 tests and clears `RETUNED`, H3 follows the read-back frame. With nothing left the command
responds (that this is an action of its own is log 16). -/
def Obligations.SegmentActions : Prop :=
  (∀ (s : State) (fl : Flight) (r : FrameReq) (rest : List BusOp), fl.todo = .frame r :: rest →
    let t := advance fl s
    t.rx = s.rx ∧ t.kf = s.kf ∧ t.ld = s.ld ∧ t.cfg = s.cfg ∧ t.faulted = s.faulted ∧ t.port s.cur.other = s.port s.cur.other ∧
    (t.port s.cur).queue = (s.port s.cur).queue ∧ ∃ fl', (t.port s.cur).busy = .running fl' ∧ fl'.rep = fl.rep ∧
      (t.seq ≠ none → fl'.todo = fl.todo) ∧ (t.seq = none → fl'.todo = rest)) ∧
  (∀ (s : State) (fl : Flight) (rest : List BusOp),
    let does (g : Segment) (r : Rxd) (ops : List BusOp) (bits : BitVec 32) : Prop := fl.todo = .seg g :: rest →
      advance fl s =
        ({ s with rx := r }).setBusy s.cur (.running { fl with todo := ops ++ rest, rep := fl.rep ||| bits })
    (fl.todo = .seg .idle :: rest →
      advance fl s = ({ s with pins := idle }).setBusy s.cur (.running { fl with todo := rest })) ∧
    (∀ f now, does (.tune f now) { s.rx with curFreq := f } (afterS1 s.rx.pwrDown f now) 0) ∧
    (∀ down, does (.power down) { s.rx with pwrDown := down } [] 0) ∧
    (∀ now, does (.arm now) { s.rx with retuned := true, retuneTs := now } [] 0) ∧
    (∀ f now, f ≠ s.rx.curFreq → 30 ≤ (now - s.rx.retuneTs).toNat →
      does (.change f now) { s.rx with curFreq := f } (afterS1 s.rx.pwrDown f now) 0x1) ∧
    (∀ f now, f = s.rx.curFreq ∨ (now - s.rx.retuneTs).toNat < 30 → does (.change f now) s.rx [] 0) ∧
    (∀ now, s.rx.retuned = false ∨ (now - s.rx.retuneTs).toNat < 35 → does (.settle now) s.rx [] 0) ∧
    (∀ now, s.rx.retuned = true → 35 ≤ (now - s.rx.retuneTs).toNat →
      does (.settle now) { s.rx with retuned := false }
        (if s.env.verifyReadback && !s.rx.pwrDown then [.frame (.read 0x1), .seg .compare] else []) 0x2) ∧
    does .compare s.rx []
      (0x4 ||| fl.rb.setWidth 32 <<< 4 ||| (if fl.rb = (encodeFreq s.rx.curFreq).setWidth 20 then 0 else 0x8)) ∧
    (fl.todo = [] → advance fl s = (s.setBusy s.cur .idle).emit (.rsp s.cur ⟨.ok, fl.rep⟩))) ∧
  (busProgram .rxInit =
    some [.seg .idle, .frame (.write 0xF 0x00000), .seg (.power false), .seg (.tune 1111 0)]) ∧
  (∀ f now, admitted f = true → busProgram (.rxSetfreq f now) = some [.seg (.tune f now)] ∧
    busProgram (.rxHfc f now) = some [.seg (.change f now), .seg (.settle now)])

/-- However far a bus command has come, in turns of atomic grain with nothing in between, its registers follow its frames
(R71, R120, R121, R125). `RX_SETFREQ`, and `RX_HFC` with a due change, write `CUR_FREQ` in the first turn, before any frame
(log 16); `RX_INIT` writes it after its wake frame and before its power-down frame. `PWR_DOWN` stays as it was until the wake
or the power-down frame is out, and the tuning frame goes out only to a module that is up. On the tuning path `RETUNED` and
`RETUNE_TS` stay as they were until the tuning frame is out, so a sample taken during that frame is live (R134), and they are
armed by the time the command answers; no other path writes `RETUNE_TS` or sets `RETUNED`. -/
def Obligations.RegistersFollowTheirFrames : Prop :=
  ∀ (s : State) (p : Port) (w : Cmd) (rest : List Turn) (i : Instr) (n : Nat), s.faulted = none → s.seq = none →
    (s.port p).busy = .idle → (∀ f, (s.port p.other).busy ≠ .running f) → (s.port p).queue = [w] → decode w = .ok i →
    drivesBus i = true → i.wellFormed = true → 1 ≤ n →
    ∃ (t : State) (out : List Obs),
      Host.Core.run Sys2Proof.core n (s.setSched (List.replicate n (Turn.atom p) ++ rest)) = .next t ∧
      t.trace = s.trace ++ out ∧ (n = 1 → out = []) ∧
      let wake : Prop := Obs.frame (.write 0xF 0x00000) ∈ out
      let down : Prop := Obs.frame (.write 0xA 0xFFFFF) ∈ out
      let tuning (f : Mhz) : Prop := Obs.frame (.write 0x1 ((encodeFreq f).setWidth 20)) ∈ out
      let answered : Prop := ∃ r, Obs.rsp p r ∈ out
      let tunes (f : Mhz) (now : Ms) : Prop :=
        t.rx.curFreq = f ∧
        (t.rx.pwrDown = s.rx.pwrDown ∨ (wake ∧ t.rx.pwrDown = false)) ∧
        (tuning f → t.rx.pwrDown = false) ∧
        ((t.rx.retuned = s.rx.retuned ∧ t.rx.retuneTs = s.rx.retuneTs) ∨
          (tuning f ∧ t.rx.retuned = true ∧ t.rx.retuneTs = now)) ∧
        (answered → tuning f ∧ t.rx.retuned = true ∧ t.rx.retuneTs = now)
      let powersDown : Prop :=
        t.rx.curFreq = 1111 ∧ t.rx.retuneTs = s.rx.retuneTs ∧
        (t.rx.pwrDown = s.rx.pwrDown ∨ (down ∧ t.rx.pwrDown = true)) ∧ (answered → down ∧ t.rx.pwrDown = true)
      (∀ f now, i = .rxSetfreq f now → f ≠ 1111 → tunes f now) ∧
      (∀ f now, i = .rxSetfreq f now → f = 1111 → powersDown ∧ t.rx.retuned = s.rx.retuned) ∧
      (∀ f now, i = .rxHfc f now → f ≠ s.rx.curFreq → 30 ≤ (now - s.rx.retuneTs).toNat →
        (f ≠ 1111 → tunes f now) ∧ (f = 1111 → powersDown ∧ (t.rx.retuned = true → s.rx.retuned = true))) ∧
      (∀ f now, i = .rxHfc f now → f = s.rx.curFreq ∨ (now - s.rx.retuneTs).toNat < 30 →
        t.rx.curFreq = s.rx.curFreq ∧ t.rx.pwrDown = s.rx.pwrDown ∧ t.rx.retuneTs = s.rx.retuneTs ∧
        (t.rx.retuned = true → s.rx.retuned = true)) ∧
      (i = .rxInit →
        t.rx.retuned = s.rx.retuned ∧ t.rx.retuneTs = s.rx.retuneTs ∧
        (t.rx.curFreq = s.rx.curFreq ∨ (wake ∧ t.rx.curFreq = 1111)) ∧ (down → t.rx.curFreq = 1111) ∧
        (t.rx.pwrDown = s.rx.pwrDown ∨ (wake ∧ t.rx.pwrDown = false) ∨ (down ∧ t.rx.pwrDown = true)) ∧
        (answered → down ∧ t.rx.pwrDown = true))
end

