-- ==== Sys2Proof/Laws/Codec.lean ====
section
/-! SUPPORT. The laws of the command encoding: what each field of a packed word is, and that a word is its fields (R80). -/

namespace Sys2Proof

/-- The bits of a packed word. -/
theorem pack_getLsbD (o : BitVec 8) (f : BitVec 16) (v : BitVec 32) (i : Nat) :
    (pack o f v).getLsbD i =
      if i < 32 then v.getLsbD i
      else if i < 48 then f.getLsbD (i - 32)
      else if i < 56 then false
      else o.getLsbD (i - 56) := by
  change BitVec.getLsbD (w := 8 + 8 + 16 + 32) (o ++ 0#8 ++ f ++ v) i = _
  simp only [BitVec.getLsbD_append]
  have e : i - 32 - 16 - 8 = i - 56 := by omega
  rcases Nat.lt_or_ge i 32 with h | h
  · simp [h]
  rcases Nat.lt_or_ge i 48 with h2 | h2
  · have : i - 32 < 16 := by omega
    simp [Nat.not_lt.mpr h, h2, this]
  rcases Nat.lt_or_ge i 56 with h3 | h3
  · have h4 : ¬ i - 32 < 16 := by omega
    have h5 : i - 32 - 16 < 8 := by omega
    simp [Nat.not_lt.mpr h, Nat.not_lt.mpr h2, h3, h4, h5]
  · have h4 : ¬ i - 32 < 16 := by omega
    have h5 : ¬ i - 32 - 16 < 8 := by omega
    simp [Nat.not_lt.mpr h, Nat.not_lt.mpr h2, Nat.not_lt.mpr h3, h4, h5, e]

@[simp] theorem opcField_pack (o : BitVec 8) (f : BitVec 16) (v : BitVec 32) : opcField (pack o f v) = o := by
  apply BitVec.eq_of_getLsbD_eq
  intro i hi
  have h1 : ¬ 56 + i < 32 := by omega
  have h2 : ¬ 56 + i < 48 := by omega
  have e : 56 + i - 56 = i := by omega
  simp only [opcField, BitVec.getLsbD_extractLsb', pack_getLsbD, hi, h1, h2, e, decide_true, Bool.true_and, if_false]
  simp

@[simp] theorem rsvField_pack (o : BitVec 8) (f : BitVec 16) (v : BitVec 32) : rsvField (pack o f v) = 0 := by
  apply BitVec.eq_of_getLsbD_eq
  intro i hi
  have h1 : ¬ 48 + i < 32 := by omega
  have h2 : ¬ 48 + i < 48 := by omega
  have h3 : 48 + i < 56 := by omega
  simp only [rsvField, BitVec.getLsbD_extractLsb', pack_getLsbD, hi, h1, h2, h3, if_true, if_false]
  simp

@[simp] theorem f16Field_pack (o : BitVec 8) (f : BitVec 16) (v : BitVec 32) : f16Field (pack o f v) = f := by
  apply BitVec.eq_of_getLsbD_eq
  intro i hi
  have h1 : ¬ 32 + i < 32 := by omega
  have h2 : 32 + i < 48 := by omega
  have e : 32 + i - 32 = i := by omega
  simp only [f16Field, BitVec.getLsbD_extractLsb', pack_getLsbD, hi, h1, h2, e, decide_true, Bool.true_and, if_true,
    if_false]

@[simp] theorem v32Field_pack (o : BitVec 8) (f : BitVec 16) (v : BitVec 32) : v32Field (pack o f v) = v := by
  apply BitVec.eq_of_getLsbD_eq
  intro i hi
  simp only [v32Field, BitVec.getLsbD_extractLsb', pack_getLsbD, hi, Nat.zero_add, decide_true, Bool.true_and, if_true]

/-- A word whose `RSV` field is 0 is the pack of its other fields. -/
theorem pack_fields (w : Cmd) (h : rsvField w = 0) : pack (opcField w) (f16Field w) (v32Field w) = w := by
  apply BitVec.eq_of_getLsbD_eq
  intro i hi
  have hr : ∀ j, j < 8 → w.getLsbD (48 + j) = false := by
    intro j hj
    have := congrArg (fun x => BitVec.getLsbD x j) h
    simpa [rsvField, BitVec.getLsbD_extractLsb', hj] using this
  simp only [pack_getLsbD, opcField, f16Field, v32Field, BitVec.getLsbD_extractLsb']
  by_cases h1 : i < 32
  · simp [h1]
  by_cases h2 : i < 48
  · have e : 32 + (i - 32) = i := by omega
    have : i - 32 < 16 := by omega
    simp [h1, h2, e, this]
  by_cases h3 : i < 56
  · have := hr (i - 48) (by omega)
    have e : 48 + (i - 48) = i := by omega
    rw [e] at this
    simp [h1, h2, h3, this]
  · have h4 : i - 56 < 8 := by omega
    have e : 56 + (i - 56) = i := by omega
    simp [h1, h2, h3, h4, e]

/-- The low bits of a value widened to 32 bits are the value. -/
theorem low_of_setWidth {n : Nat} (v : BitVec n) (h : n ≤ 32) : (v.setWidth 32).extractLsb' 0 n = v := by
  apply BitVec.eq_of_getLsbD_eq
  intro i hi
  have : i < 32 := by omega
  simp [hi, this]

/-- The high bits of a value widened to 32 bits are 0. -/
theorem high_of_setWidth {n : Nat} (v : BitVec n) : (v.setWidth 32).extractLsb' n (32 - n) = 0 := by
  apply BitVec.eq_of_getLsbD_eq
  intro i hi
  simp [BitVec.getLsbD_extractLsb', BitVec.getLsbD_setWidth]

/-- A 32-bit value whose bits from `n` on are 0 is its low `n` bits, widened. -/
theorem setWidth_of_low {n : Nat} (v : BitVec 32) (h : v.extractLsb' n (32 - n) = 0) :
    (v.extractLsb' 0 n).setWidth 32 = v := by
  apply BitVec.eq_of_getLsbD_eq
  intro i hi
  by_cases hn : i < n
  · simp [hi, hn]
  · have := congrArg (fun x => BitVec.getLsbD x (i - n)) h
    have h1 : i - n < 32 - n := by omega
    have e : n + (i - n) = i := by omega
    simp [h1, e] at this
    simp [BitVec.getLsbD_extractLsb', BitVec.getLsbD_setWidth, hn, this]

/-- Two words are equal exactly when their four fields are. -/
theorem word_ext (w v : Cmd) :
    w = v ↔ opcField w = opcField v ∧ rsvField w = rsvField v ∧ f16Field w = f16Field v ∧ v32Field w = v32Field v := by
  constructor
  · rintro rfl; exact ⟨rfl, rfl, rfl, rfl⟩
  · rintro ⟨h1, h2, h3, h4⟩
    have field : ∀ lo n i, w.extractLsb' lo n = v.extractLsb' lo n → lo ≤ i → i < lo + n → w.getLsbD i = v.getLsbD i := by
      intro lo n i h hl hu
      have := congrArg (fun x => BitVec.getLsbD x (i - lo)) h
      have e : lo + (i - lo) = i := by omega
      have l : i - lo < n := by omega
      simpa only [BitVec.getLsbD_extractLsb', l, decide_true, Bool.true_and, e] using this
    apply BitVec.eq_of_getLsbD_eq
    intro i hi
    by_cases a : i < 32
    · exact field 0 32 i h4 (by omega) (by omega)
    by_cases b : i < 48
    · exact field 32 16 i h3 (by omega) (by omega)
    by_cases c : i < 56
    · exact field 48 8 i h2 (by omega) (by omega)
    · exact field 56 8 i h1 (by omega) (by omega)

/-- A field of a masked word is the masked field. -/
theorem opcField_and (w v : Cmd) : opcField (w &&& v) = opcField w &&& opcField v := by
  apply BitVec.eq_of_getLsbD_eq; intro i hi; simp [opcField, hi]
theorem rsvField_and (w v : Cmd) : rsvField (w &&& v) = rsvField w &&& rsvField v := by
  apply BitVec.eq_of_getLsbD_eq; intro i hi; simp [rsvField, hi]
theorem f16Field_and (w v : Cmd) : f16Field (w &&& v) = f16Field w &&& f16Field v := by
  apply BitVec.eq_of_getLsbD_eq; intro i hi; simp [f16Field, hi]
theorem v32Field_and (w v : Cmd) : v32Field (w &&& v) = v32Field w &&& v32Field v := by
  apply BitVec.eq_of_getLsbD_eq; intro i hi; simp [v32Field, hi]

/-- Masking with the bits from `n` on gives 0 exactly when those bits are 0. -/
theorem highMask_and_eq_zero (n : Nat) (v m : BitVec 32) (hm : ∀ i : Fin 32, m.getLsbD i = decide (n ≤ i.val)) (hn : n ≤ 32) :
    v &&& m = 0 ↔ v.extractLsb' n (32 - n) = 0 := by
  constructor
  · intro h
    apply BitVec.eq_of_getLsbD_eq
    intro i hi
    have hb := congrArg (fun x => BitVec.getLsbD x (n + i)) h
    have h2 := hm ⟨n + i, by omega⟩
    simp only [BitVec.getLsbD_and, h2] at hb
    simp [hi] at hb ⊢
    simpa using hb
  · intro h
    apply BitVec.eq_of_getLsbD_eq
    intro i hi
    have h2 := hm ⟨i, hi⟩
    simp only [BitVec.getLsbD_and, h2]
    by_cases c : n ≤ i
    · have hb := congrArg (fun x => BitVec.getLsbD x (i - n)) h
      have e : n + (i - n) = i := by omega
      have l : i - n < 32 - n := by omega
      simp only [BitVec.getLsbD_extractLsb', l, decide_true, Bool.true_and, e] at hb
      simpa [c] using hb
    · simp [c]

end Sys2Proof
end

