-- ==== Sys2Proof/Laws/Memory.lean ====
section
/-! SUPPORT. The laws of the RAMs: a read after a write (R13, R65), and every operation keeps the canonical form. -/

namespace Sys2Proof.Machine

variable {w : Nat}

@[simp] theorem Memory.read_clear (i : Nat) : Memory.read i (Memory.clear : Memory w) = 0 := rfl

/-- Below its first index a canonical memory reads 0. -/
theorem Memory.read_below {n lo i : Nat} {m : Memory w} (h : Memory.wfFrom n lo m) (hi : i < lo) : Memory.read i m = 0 := by
  induction m generalizing lo with
  | nil => rfl
  | cons x rest ih =>
    obtain ⟨j, u⟩ := x
    simp only [Memory.wfFrom, Bool.and_eq_true, decide_eq_true_eq] at h
    have : i ≠ j := by omega
    simp only [Memory.read, this, if_false]
    exact ih h.2 (by omega)

theorem Memory.read_cons_same {n i : Nat} {v : BitVec w} {m : Memory w} (h : Memory.wfFrom n (i + 1) m) :
    Memory.read i (Memory.cons i v m) = v := by
  unfold Memory.cons
  split
  · rename_i hv; rw [Memory.read_below h (Nat.lt_succ_self i), hv]
  · simp [Memory.read]

theorem Memory.read_cons_other {i j : Nat} {v : BitVec w} {m : Memory w} (h : j ≠ i) :
    Memory.read j (Memory.cons i v m) = Memory.read j m := by
  unfold Memory.cons
  split
  · rfl
  · simp [Memory.read, h]

/-- A canonical tail stays canonical from any lower start. -/
theorem Memory.wfFrom_mono {n lo lo' : Nat} {m : Memory w} (h : Memory.wfFrom n lo m) (hl : lo' ≤ lo) :
    Memory.wfFrom n lo' m := by
  cases m with
  | nil => rfl
  | cons x rest =>
    obtain ⟨j, u⟩ := x
    simp only [Memory.wfFrom, Bool.and_eq_true, decide_eq_true_eq] at h ⊢
    exact ⟨⟨⟨by omega, h.1.1.2⟩, h.1.2⟩, h.2⟩

theorem Memory.wf_cons {n lo i : Nat} {v : BitVec w} {m : Memory w} (h : Memory.wfFrom n (i + 1) m) (hl : lo ≤ i) (hn : i < n) :
    Memory.wfFrom n lo (Memory.cons i v m) := by
  unfold Memory.cons
  split
  · exact Memory.wfFrom_mono h (by omega)
  · rename_i hv
    have hv' : (v != 0) = true := by rw [bne_iff_ne]; exact hv
    simp only [Memory.wfFrom, hl, hn, hv', h, decide_true, Bool.and_self]

/-- A write into the index range keeps the canonical form. -/
theorem Memory.wfFrom_write {n lo i : Nat} {v : BitVec w} {m : Memory w} (h : Memory.wfFrom n lo m) (hl : lo ≤ i) (hn : i < n) :
    Memory.wfFrom n lo (Memory.write i v m) := by
  induction m generalizing lo with
  | nil => exact Memory.wf_cons rfl hl hn
  | cons x rest ih =>
    obtain ⟨j, u⟩ := x
    have h' := h
    simp only [Memory.wfFrom, Bool.and_eq_true, decide_eq_true_eq] at h'
    unfold Memory.write
    split
    · refine Memory.wf_cons ?_ hl hn
      simp only [Memory.wfFrom, Bool.and_eq_true, decide_eq_true_eq]
      exact ⟨⟨⟨by omega, h'.1.1.2⟩, h'.1.2⟩, h'.2⟩
    · split
      · rename_i _ he; subst he; exact Memory.wf_cons h'.2 hl hn
      · simp only [Memory.wfFrom, Bool.and_eq_true, decide_eq_true_eq]
        exact ⟨⟨⟨h'.1.1.1, h'.1.1.2⟩, h'.1.2⟩, ih h'.2 (by omega)⟩

theorem Memory.wf_write {n i : Nat} {v : BitVec w} {m : Memory w} (h : Memory.wf n m) (hn : i < n) :
    Memory.wf n (Memory.write i v m) := Memory.wfFrom_write h (Nat.zero_le i) hn

@[simp] theorem Memory.wf_clear (n : Nat) : Memory.wf n (Memory.clear : Memory w) = true := rfl

/-- A read after a write of the same entry gives the value written. -/
theorem Memory.read_write_same {n lo i : Nat} {v : BitVec w} {m : Memory w} (h : Memory.wfFrom n lo m) :
    Memory.read i (Memory.write i v m) = v := by
  induction m generalizing lo with
  | nil => exact Memory.read_cons_same (n := n) rfl
  | cons x rest ih =>
    obtain ⟨j, u⟩ := x
    have h' := h
    simp only [Memory.wfFrom, Bool.and_eq_true, decide_eq_true_eq] at h'
    unfold Memory.write
    split
    · refine Memory.read_cons_same (n := n) ?_
      simp only [Memory.wfFrom, Bool.and_eq_true, decide_eq_true_eq]
      exact ⟨⟨⟨by omega, h'.1.1.2⟩, h'.1.2⟩, h'.2⟩
    · split
      · rename_i _ he; subst he; exact Memory.read_cons_same h'.2
      · rename_i _ he
        simp only [Memory.read, he, if_false]
        exact ih h'.2

/-- A write leaves every other entry alone. -/
theorem Memory.read_write_other {i j : Nat} {v : BitVec w} {m : Memory w} (h : j ≠ i) :
    Memory.read j (Memory.write i v m) = Memory.read j m := by
  induction m with
  | nil => exact Memory.read_cons_other h
  | cons x rest ih =>
    obtain ⟨k, u⟩ := x
    unfold Memory.write
    split
    · exact Memory.read_cons_other h
    · split
      · rename_i _ he; subst he
        rw [Memory.read_cons_other h]; simp [Memory.read, h]
      · simp only [Memory.read]; split
        · rfl
        · exact ih

end Sys2Proof.Machine
end

