-- ==== Sys2Proof/Laws/State.lean ====
section
/-! SUPPORT. One lemma for each field after each update of the state, so that no later proof unfolds a record update, and
the equations that reduce the derived updates to those. -/

namespace Sys2Proof.Machine

variable (s : State)

/-! ### `setRx` -/

@[simp] theorem State.setRx_rx (r : Rxd) : (s.setRx r).rx = r := rfl
@[simp] theorem State.setRx_pins (r : Rxd) : (s.setRx r).pins = s.pins := rfl
@[simp] theorem State.setRx_seq (r : Rxd) : (s.setRx r).seq = s.seq := rfl
@[simp] theorem State.setRx_kf (r : Rxd) : (s.setRx r).kf = s.kf := rfl
@[simp] theorem State.setRx_ld (r : Rxd) : (s.setRx r).ld = s.ld := rfl
@[simp] theorem State.setRx_cfg (r : Rxd) : (s.setRx r).cfg = s.cfg := rfl
@[simp] theorem State.setRx_faulted (r : Rxd) : (s.setRx r).faulted = s.faulted := rfl
@[simp] theorem State.setRx_p0 (r : Rxd) : (s.setRx r).p0 = s.p0 := rfl
@[simp] theorem State.setRx_p1 (r : Rxd) : (s.setRx r).p1 = s.p1 := rfl
@[simp] theorem State.setRx_cur (r : Rxd) : (s.setRx r).cur = s.cur := rfl
@[simp] theorem State.setRx_env (r : Rxd) : (s.setRx r).env = s.env := rfl
@[simp] theorem State.setRx_trace (r : Rxd) : (s.setRx r).trace = s.trace := rfl
@[simp] theorem State.setRx_busWaits (r : Rxd) : (s.setRx r).busWaits = s.busWaits := rfl

/-! ### `setPins` -/

@[simp] theorem State.setPins_rx (p : Pins) : (s.setPins p).rx = s.rx := rfl
@[simp] theorem State.setPins_pins (p : Pins) : (s.setPins p).pins = p := rfl
@[simp] theorem State.setPins_seq (p : Pins) : (s.setPins p).seq = s.seq := rfl
@[simp] theorem State.setPins_kf (p : Pins) : (s.setPins p).kf = s.kf := rfl
@[simp] theorem State.setPins_ld (p : Pins) : (s.setPins p).ld = s.ld := rfl
@[simp] theorem State.setPins_cfg (p : Pins) : (s.setPins p).cfg = s.cfg := rfl
@[simp] theorem State.setPins_faulted (p : Pins) : (s.setPins p).faulted = s.faulted := rfl
@[simp] theorem State.setPins_p0 (p : Pins) : (s.setPins p).p0 = s.p0 := rfl
@[simp] theorem State.setPins_p1 (p : Pins) : (s.setPins p).p1 = s.p1 := rfl
@[simp] theorem State.setPins_cur (p : Pins) : (s.setPins p).cur = s.cur := rfl
@[simp] theorem State.setPins_env (p : Pins) : (s.setPins p).env = s.env := rfl
@[simp] theorem State.setPins_trace (p : Pins) : (s.setPins p).trace = s.trace := rfl
@[simp] theorem State.setPins_busWaits (p : Pins) : (s.setPins p).busWaits = s.busWaits := rfl

/-! ### `setSeq` -/

@[simp] theorem State.setSeq_rx (q : Option SeqPos) : (s.setSeq q).rx = s.rx := rfl
@[simp] theorem State.setSeq_pins (q : Option SeqPos) : (s.setSeq q).pins = s.pins := rfl
@[simp] theorem State.setSeq_seq (q : Option SeqPos) : (s.setSeq q).seq = q := rfl
@[simp] theorem State.setSeq_kf (q : Option SeqPos) : (s.setSeq q).kf = s.kf := rfl
@[simp] theorem State.setSeq_ld (q : Option SeqPos) : (s.setSeq q).ld = s.ld := rfl
@[simp] theorem State.setSeq_cfg (q : Option SeqPos) : (s.setSeq q).cfg = s.cfg := rfl
@[simp] theorem State.setSeq_faulted (q : Option SeqPos) : (s.setSeq q).faulted = s.faulted := rfl
@[simp] theorem State.setSeq_p0 (q : Option SeqPos) : (s.setSeq q).p0 = s.p0 := rfl
@[simp] theorem State.setSeq_p1 (q : Option SeqPos) : (s.setSeq q).p1 = s.p1 := rfl
@[simp] theorem State.setSeq_cur (q : Option SeqPos) : (s.setSeq q).cur = s.cur := rfl
@[simp] theorem State.setSeq_env (q : Option SeqPos) : (s.setSeq q).env = s.env := rfl
@[simp] theorem State.setSeq_trace (q : Option SeqPos) : (s.setSeq q).trace = s.trace := rfl
@[simp] theorem State.setSeq_busWaits (q : Option SeqPos) : (s.setSeq q).busWaits = s.busWaits := rfl

/-! ### `setKf` -/

@[simp] theorem State.setKf_rx (k : Kf) : (s.setKf k).rx = s.rx := rfl
@[simp] theorem State.setKf_pins (k : Kf) : (s.setKf k).pins = s.pins := rfl
@[simp] theorem State.setKf_seq (k : Kf) : (s.setKf k).seq = s.seq := rfl
@[simp] theorem State.setKf_kf (k : Kf) : (s.setKf k).kf = k := rfl
@[simp] theorem State.setKf_ld (k : Kf) : (s.setKf k).ld = s.ld := rfl
@[simp] theorem State.setKf_cfg (k : Kf) : (s.setKf k).cfg = s.cfg := rfl
@[simp] theorem State.setKf_faulted (k : Kf) : (s.setKf k).faulted = s.faulted := rfl
@[simp] theorem State.setKf_p0 (k : Kf) : (s.setKf k).p0 = s.p0 := rfl
@[simp] theorem State.setKf_p1 (k : Kf) : (s.setKf k).p1 = s.p1 := rfl
@[simp] theorem State.setKf_cur (k : Kf) : (s.setKf k).cur = s.cur := rfl
@[simp] theorem State.setKf_env (k : Kf) : (s.setKf k).env = s.env := rfl
@[simp] theorem State.setKf_trace (k : Kf) : (s.setKf k).trace = s.trace := rfl
@[simp] theorem State.setKf_busWaits (k : Kf) : (s.setKf k).busWaits = s.busWaits := rfl

/-! ### `setLd` -/

@[simp] theorem State.setLd_rx (l : Ld) : (s.setLd l).rx = s.rx := rfl
@[simp] theorem State.setLd_pins (l : Ld) : (s.setLd l).pins = s.pins := rfl
@[simp] theorem State.setLd_seq (l : Ld) : (s.setLd l).seq = s.seq := rfl
@[simp] theorem State.setLd_kf (l : Ld) : (s.setLd l).kf = s.kf := rfl
@[simp] theorem State.setLd_ld (l : Ld) : (s.setLd l).ld = l := rfl
@[simp] theorem State.setLd_cfg (l : Ld) : (s.setLd l).cfg = s.cfg := rfl
@[simp] theorem State.setLd_faulted (l : Ld) : (s.setLd l).faulted = s.faulted := rfl
@[simp] theorem State.setLd_p0 (l : Ld) : (s.setLd l).p0 = s.p0 := rfl
@[simp] theorem State.setLd_p1 (l : Ld) : (s.setLd l).p1 = s.p1 := rfl
@[simp] theorem State.setLd_cur (l : Ld) : (s.setLd l).cur = s.cur := rfl
@[simp] theorem State.setLd_env (l : Ld) : (s.setLd l).env = s.env := rfl
@[simp] theorem State.setLd_trace (l : Ld) : (s.setLd l).trace = s.trace := rfl
@[simp] theorem State.setLd_busWaits (l : Ld) : (s.setLd l).busWaits = s.busWaits := rfl

/-! ### `setCfg` -/

@[simp] theorem State.setCfg_rx (c : Cfg) : (s.setCfg c).rx = s.rx := rfl
@[simp] theorem State.setCfg_pins (c : Cfg) : (s.setCfg c).pins = s.pins := rfl
@[simp] theorem State.setCfg_seq (c : Cfg) : (s.setCfg c).seq = s.seq := rfl
@[simp] theorem State.setCfg_kf (c : Cfg) : (s.setCfg c).kf = s.kf := rfl
@[simp] theorem State.setCfg_ld (c : Cfg) : (s.setCfg c).ld = s.ld := rfl
@[simp] theorem State.setCfg_cfg (c : Cfg) : (s.setCfg c).cfg = c := rfl
@[simp] theorem State.setCfg_faulted (c : Cfg) : (s.setCfg c).faulted = s.faulted := rfl
@[simp] theorem State.setCfg_p0 (c : Cfg) : (s.setCfg c).p0 = s.p0 := rfl
@[simp] theorem State.setCfg_p1 (c : Cfg) : (s.setCfg c).p1 = s.p1 := rfl
@[simp] theorem State.setCfg_cur (c : Cfg) : (s.setCfg c).cur = s.cur := rfl
@[simp] theorem State.setCfg_env (c : Cfg) : (s.setCfg c).env = s.env := rfl
@[simp] theorem State.setCfg_trace (c : Cfg) : (s.setCfg c).trace = s.trace := rfl
@[simp] theorem State.setCfg_busWaits (c : Cfg) : (s.setCfg c).busWaits = s.busWaits := rfl

/-! ### `setCur` -/

@[simp] theorem State.setCur_rx (p : Port) : (s.setCur p).rx = s.rx := rfl
@[simp] theorem State.setCur_pins (p : Port) : (s.setCur p).pins = s.pins := rfl
@[simp] theorem State.setCur_seq (p : Port) : (s.setCur p).seq = s.seq := rfl
@[simp] theorem State.setCur_kf (p : Port) : (s.setCur p).kf = s.kf := rfl
@[simp] theorem State.setCur_ld (p : Port) : (s.setCur p).ld = s.ld := rfl
@[simp] theorem State.setCur_cfg (p : Port) : (s.setCur p).cfg = s.cfg := rfl
@[simp] theorem State.setCur_faulted (p : Port) : (s.setCur p).faulted = s.faulted := rfl
@[simp] theorem State.setCur_p0 (p : Port) : (s.setCur p).p0 = s.p0 := rfl
@[simp] theorem State.setCur_p1 (p : Port) : (s.setCur p).p1 = s.p1 := rfl
@[simp] theorem State.setCur_cur (p : Port) : (s.setCur p).cur = p := rfl
@[simp] theorem State.setCur_env (p : Port) : (s.setCur p).env = s.env := rfl
@[simp] theorem State.setCur_trace (p : Port) : (s.setCur p).trace = s.trace := rfl
@[simp] theorem State.setCur_busWaits (p : Port) : (s.setCur p).busWaits = s.busWaits := rfl

/-! ### `setSched` -/

@[simp] theorem State.setSched_rx (t : List Turn) : (s.setSched t).rx = s.rx := rfl
@[simp] theorem State.setSched_pins (t : List Turn) : (s.setSched t).pins = s.pins := rfl
@[simp] theorem State.setSched_seq (t : List Turn) : (s.setSched t).seq = s.seq := rfl
@[simp] theorem State.setSched_kf (t : List Turn) : (s.setSched t).kf = s.kf := rfl
@[simp] theorem State.setSched_ld (t : List Turn) : (s.setSched t).ld = s.ld := rfl
@[simp] theorem State.setSched_cfg (t : List Turn) : (s.setSched t).cfg = s.cfg := rfl
@[simp] theorem State.setSched_faulted (t : List Turn) : (s.setSched t).faulted = s.faulted := rfl
@[simp] theorem State.setSched_p0 (t : List Turn) : (s.setSched t).p0 = s.p0 := rfl
@[simp] theorem State.setSched_p1 (t : List Turn) : (s.setSched t).p1 = s.p1 := rfl
@[simp] theorem State.setSched_cur (t : List Turn) : (s.setSched t).cur = s.cur := rfl
@[simp] theorem State.setSched_env (t : List Turn) : (s.setSched t).env = { s.env with sched := t } := rfl
@[simp] theorem State.setSched_trace (t : List Turn) : (s.setSched t).trace = s.trace := rfl
@[simp] theorem State.setSched_busWaits (t : List Turn) : (s.setSched t).busWaits = s.busWaits := rfl

/-! ### `emit` -/

@[simp] theorem State.emit_rx (o : Obs) : (s.emit o).rx = s.rx := rfl
@[simp] theorem State.emit_pins (o : Obs) : (s.emit o).pins = s.pins := rfl
@[simp] theorem State.emit_seq (o : Obs) : (s.emit o).seq = s.seq := rfl
@[simp] theorem State.emit_kf (o : Obs) : (s.emit o).kf = s.kf := rfl
@[simp] theorem State.emit_ld (o : Obs) : (s.emit o).ld = s.ld := rfl
@[simp] theorem State.emit_cfg (o : Obs) : (s.emit o).cfg = s.cfg := rfl
@[simp] theorem State.emit_faulted (o : Obs) : (s.emit o).faulted = s.faulted := rfl
@[simp] theorem State.emit_p0 (o : Obs) : (s.emit o).p0 = s.p0 := rfl
@[simp] theorem State.emit_p1 (o : Obs) : (s.emit o).p1 = s.p1 := rfl
@[simp] theorem State.emit_cur (o : Obs) : (s.emit o).cur = s.cur := rfl
@[simp] theorem State.emit_env (o : Obs) : (s.emit o).env = s.env := rfl
@[simp] theorem State.emit_trace (o : Obs) : (s.emit o).trace = s.trace ++ [o] := rfl
@[simp] theorem State.emit_busWaits (o : Obs) : (s.emit o).busWaits = s.busWaits := rfl

/-! ### `wait` -/

@[simp] theorem State.wait_rx (n : Nat) : (s.wait n).rx = s.rx := rfl
@[simp] theorem State.wait_pins (n : Nat) : (s.wait n).pins = s.pins := rfl
@[simp] theorem State.wait_seq (n : Nat) : (s.wait n).seq = s.seq := rfl
@[simp] theorem State.wait_kf (n : Nat) : (s.wait n).kf = s.kf := rfl
@[simp] theorem State.wait_ld (n : Nat) : (s.wait n).ld = s.ld := rfl
@[simp] theorem State.wait_cfg (n : Nat) : (s.wait n).cfg = s.cfg := rfl
@[simp] theorem State.wait_faulted (n : Nat) : (s.wait n).faulted = s.faulted := rfl
@[simp] theorem State.wait_p0 (n : Nat) : (s.wait n).p0 = s.p0 := rfl
@[simp] theorem State.wait_p1 (n : Nat) : (s.wait n).p1 = s.p1 := rfl
@[simp] theorem State.wait_cur (n : Nat) : (s.wait n).cur = s.cur := rfl
@[simp] theorem State.wait_env (n : Nat) : (s.wait n).env = s.env := rfl
@[simp] theorem State.wait_trace (n : Nat) : (s.wait n).trace = s.trace := rfl
@[simp] theorem State.wait_busWaits (n : Nat) : (s.wait n).busWaits = s.busWaits + n := rfl

/-! ### `takeAdc` -/

@[simp] theorem State.takeAdc_rx : (s.takeAdc).rx = s.rx := rfl
@[simp] theorem State.takeAdc_pins : (s.takeAdc).pins = s.pins := rfl
@[simp] theorem State.takeAdc_seq : (s.takeAdc).seq = s.seq := rfl
@[simp] theorem State.takeAdc_kf : (s.takeAdc).kf = s.kf := rfl
@[simp] theorem State.takeAdc_ld : (s.takeAdc).ld = s.ld := rfl
@[simp] theorem State.takeAdc_cfg : (s.takeAdc).cfg = s.cfg := rfl
@[simp] theorem State.takeAdc_faulted : (s.takeAdc).faulted = s.faulted := rfl
@[simp] theorem State.takeAdc_p0 : (s.takeAdc).p0 = s.p0 := rfl
@[simp] theorem State.takeAdc_p1 : (s.takeAdc).p1 = s.p1 := rfl
@[simp] theorem State.takeAdc_cur : (s.takeAdc).cur = s.cur := rfl
@[simp] theorem State.takeAdc_env : (s.takeAdc).env = { s.env with adcIn := s.env.adcIn.tail, adcDraws := s.env.adcDraws + 1 } := rfl
@[simp] theorem State.takeAdc_trace : (s.takeAdc).trace = s.trace := rfl
@[simp] theorem State.takeAdc_busWaits : (s.takeAdc).busWaits = s.busWaits := rfl

/-! ### `takeRead` -/

@[simp] theorem State.takeRead_rx : (s.takeRead).rx = s.rx := rfl
@[simp] theorem State.takeRead_pins : (s.takeRead).pins = s.pins := rfl
@[simp] theorem State.takeRead_seq : (s.takeRead).seq = s.seq := rfl
@[simp] theorem State.takeRead_kf : (s.takeRead).kf = s.kf := rfl
@[simp] theorem State.takeRead_ld : (s.takeRead).ld = s.ld := rfl
@[simp] theorem State.takeRead_cfg : (s.takeRead).cfg = s.cfg := rfl
@[simp] theorem State.takeRead_faulted : (s.takeRead).faulted = s.faulted := rfl
@[simp] theorem State.takeRead_p0 : (s.takeRead).p0 = s.p0 := rfl
@[simp] theorem State.takeRead_p1 : (s.takeRead).p1 = s.p1 := rfl
@[simp] theorem State.takeRead_cur : (s.takeRead).cur = s.cur := rfl
@[simp] theorem State.takeRead_env : (s.takeRead).env = { s.env with readIn := s.env.readIn.tail, readDraws := s.env.readDraws + 1 } := rfl
@[simp] theorem State.takeRead_trace : (s.takeRead).trace = s.trace := rfl
@[simp] theorem State.takeRead_busWaits : (s.takeRead).busWaits = s.busWaits := rfl

/-! ### `enterFaulted` -/

@[simp] theorem State.enterFaulted_rx : (s.enterFaulted).rx = s.rx := rfl
@[simp] theorem State.enterFaulted_pins : (s.enterFaulted).pins = Pins.idleLevels := rfl
@[simp] theorem State.enterFaulted_seq : (s.enterFaulted).seq = none := rfl
@[simp] theorem State.enterFaulted_kf : (s.enterFaulted).kf = s.kf := rfl
@[simp] theorem State.enterFaulted_ld : (s.enterFaulted).ld = s.ld := rfl
@[simp] theorem State.enterFaulted_cfg : (s.enterFaulted).cfg = s.cfg := rfl
@[simp] theorem State.enterFaulted_faulted : (s.enterFaulted).faulted = some (.filterDivZero s.cur) := rfl
@[simp] theorem State.enterFaulted_p0 : (s.enterFaulted).p0 = s.p0 := rfl
@[simp] theorem State.enterFaulted_p1 : (s.enterFaulted).p1 = s.p1 := rfl
@[simp] theorem State.enterFaulted_cur : (s.enterFaulted).cur = s.cur := rfl
@[simp] theorem State.enterFaulted_env : (s.enterFaulted).env = s.env := rfl
@[simp] theorem State.enterFaulted_trace : (s.enterFaulted).trace = s.trace := rfl
@[simp] theorem State.enterFaulted_busWaits : (s.enterFaulted).busWaits = s.busWaits := rfl

/-! ### `setPort` -/

@[simp] theorem State.setPort_rx (p : Port) (ps : PortState) : (s.setPort p ps).rx = s.rx := by cases p <;> rfl
@[simp] theorem State.setPort_pins (p : Port) (ps : PortState) : (s.setPort p ps).pins = s.pins := by cases p <;> rfl
@[simp] theorem State.setPort_seq (p : Port) (ps : PortState) : (s.setPort p ps).seq = s.seq := by cases p <;> rfl
@[simp] theorem State.setPort_kf (p : Port) (ps : PortState) : (s.setPort p ps).kf = s.kf := by cases p <;> rfl
@[simp] theorem State.setPort_ld (p : Port) (ps : PortState) : (s.setPort p ps).ld = s.ld := by cases p <;> rfl
@[simp] theorem State.setPort_cfg (p : Port) (ps : PortState) : (s.setPort p ps).cfg = s.cfg := by cases p <;> rfl
@[simp] theorem State.setPort_faulted (p : Port) (ps : PortState) : (s.setPort p ps).faulted = s.faulted := by cases p <;> rfl
@[simp] theorem State.setPort_cur (p : Port) (ps : PortState) : (s.setPort p ps).cur = s.cur := by cases p <;> rfl
@[simp] theorem State.setPort_env (p : Port) (ps : PortState) : (s.setPort p ps).env = s.env := by cases p <;> rfl
@[simp] theorem State.setPort_trace (p : Port) (ps : PortState) : (s.setPort p ps).trace = s.trace := by cases p <;> rfl
@[simp] theorem State.setPort_busWaits (p : Port) (ps : PortState) : (s.setPort p ps).busWaits = s.busWaits := by cases p <;> rfl
@[simp] theorem State.setPort_p0_p0 (ps : PortState) : (s.setPort .p0 ps).p0 = ps := rfl
@[simp] theorem State.setPort_p0_p1 (ps : PortState) : (s.setPort .p0 ps).p1 = s.p1 := rfl
@[simp] theorem State.setPort_p1_p0 (ps : PortState) : (s.setPort .p1 ps).p0 = s.p0 := rfl
@[simp] theorem State.setPort_p1_p1 (ps : PortState) : (s.setPort .p1 ps).p1 = ps := rfl

/-! ### Ports -/

@[simp] theorem State.port_p0 : s.port .p0 = s.p0 := rfl
@[simp] theorem State.port_p1 : s.port .p1 = s.p1 := rfl
@[simp] theorem State.port_setPort (p : Port) (ps : PortState) : (s.setPort p ps).port p = ps := by cases p <;> rfl
@[simp] theorem State.port_setPort_other (p : Port) (ps : PortState) : (s.setPort p ps).port p.other = s.port p.other := by
  cases p <;> rfl
@[simp] theorem Port.other_other (p : Port) : p.other.other = p := by cases p <;> rfl

/-- An update that leaves both ports alone leaves each port alone. -/
theorem State.port_congr (t : State) (h0 : t.p0 = s.p0) (h1 : t.p1 = s.p1) (p : Port) : t.port p = s.port p := by
  cases p <;> assumption

@[simp] theorem State.port_setRx (r : Rxd) (p' : Port) : (s.setRx r).port p' = s.port p' := by cases p' <;> rfl
@[simp] theorem State.port_setPins (p : Pins) (p' : Port) : (s.setPins p).port p' = s.port p' := by cases p' <;> rfl
@[simp] theorem State.port_setSeq (q : Option SeqPos) (p' : Port) : (s.setSeq q).port p' = s.port p' := by cases p' <;> rfl
@[simp] theorem State.port_setKf (k : Kf) (p' : Port) : (s.setKf k).port p' = s.port p' := by cases p' <;> rfl
@[simp] theorem State.port_setLd (l : Ld) (p' : Port) : (s.setLd l).port p' = s.port p' := by cases p' <;> rfl
@[simp] theorem State.port_setCfg (c : Cfg) (p' : Port) : (s.setCfg c).port p' = s.port p' := by cases p' <;> rfl
@[simp] theorem State.port_setCur (p p' : Port) : (s.setCur p).port p' = s.port p' := by cases p' <;> rfl
@[simp] theorem State.port_setSched (t : List Turn) (p' : Port) : (s.setSched t).port p' = s.port p' := by cases p' <;> rfl
@[simp] theorem State.port_emit (o : Obs) (p' : Port) : (s.emit o).port p' = s.port p' := by cases p' <;> rfl
@[simp] theorem State.port_wait (n : Nat) (p' : Port) : (s.wait n).port p' = s.port p' := by cases p' <;> rfl
@[simp] theorem State.port_takeAdc (p' : Port) : (s.takeAdc).port p' = s.port p' := by cases p' <;> rfl
@[simp] theorem State.port_takeRead (p' : Port) : (s.takeRead).port p' = s.port p' := by cases p' <;> rfl
@[simp] theorem State.port_enterFaulted (p' : Port) : (s.enterFaulted).port p' = s.port p' := by cases p' <;> rfl

/-! ### Derived updates -/

@[simp] theorem State.respond_eq (st : Status) (v : BitVec 32) : s.respond st v = s.emit (.rsp s.cur ⟨st, v⟩) := rfl
@[simp] theorem State.notify_eq (e : Event) : s.notify e = s.emit (.notify e) := rfl
@[simp] theorem State.setCurFreq_eq (f : Mhz) : s.setCurFreq f = s.setRx { s.rx with curFreq := f } := rfl
@[simp] theorem State.setPwrDown_eq (b : Bool) : s.setPwrDown b = s.setRx { s.rx with pwrDown := b } := rfl
@[simp] theorem State.clearRetuned_eq : s.clearRetuned = s.setRx { s.rx with retuned := false } := rfl
@[simp] theorem State.arm_eq (now : Ms) : s.arm now = s.setRx { s.rx with retuned := true, retuneTs := now } := rfl
@[simp] theorem State.idlePins_eq : s.idlePins = s.setPins Pins.idleLevels := rfl
@[simp] theorem State.setBusy_eq (p : Port) (b : Busy) : s.setBusy p b = s.setPort p { s.port p with busy := b } := rfl
@[simp] theorem State.setQueue_eq (p : Port) (q : List Cmd) : s.setQueue p q = s.setPort p { s.port p with queue := q } := rfl
@[simp] theorem State.waitForBus_eq (i : Instr) : s.waitForBus i = s.setPort s.cur { s.port s.cur with busy := .waiting i } := rfl

end Sys2Proof.Machine
end

