-- ==== Sys2Proof/Laws/Detector.lean ====
section
/-! SUPPORT. The detector's transition: everything a tick can do to its registers (R186), and the ring cursors (R61, R63). -/

namespace Sys2Proof.Machine

/-- The peak step as one update of the two peak registers (R180). -/
theorem Ld.peakStep_eq (smp : Rssi) (now : Ms) (c : Cfg) (l : Ld) :
    l.peakStep smp now c =
      { l with peak := if raisesPeak smp c l then smp else l.peak
               peakTs := if raisesPeak smp c l then now else l.peakTs } := by
  unfold Ld.peakStep; split <;> simp_all

/-- Everything a tick can do to the detector's registers (R186), with whether a lap starts. -/
theorem Ld.transition_cases (smp : Rssi) (now : Ms) (c : Cfg) (l : Ld) :
    (l.state = .stopped ∧ l.transition smp now c = (l, false)) ∨
    (l.state = .waiting ∧ captured smp c (l.peakStep smp now c) = true ∧
      l.transition smp now c = (Ld.startLap { l.peakStep smp now c with state := .running }, true)) ∨
    (l.state = .waiting ∧ captured smp c (l.peakStep smp now c) = false ∧
      l.transition smp now c = (l.peakStep smp now c, false)) ∨
    (l.state = .running ∧ gateOpen now c l = true ∧ captured smp c (l.peakStep smp now c) = true ∧
      l.transition smp now c = ((l.peakStep smp now c).finishLap.startLap, true)) ∨
    (l.state = .running ∧ gateOpen now c l = true ∧ captured smp c (l.peakStep smp now c) = false ∧
      l.transition smp now c = (l.peakStep smp now c, false)) ∨
    (l.state = .running ∧ gateOpen now c l = false ∧ l.transition smp now c = (l, false)) := by
  unfold Ld.transition
  cases h1 : l.state <;> cases h2 : gateOpen now c l <;> cases h3 : captured smp c (l.peakStep smp now c) <;> simp [h3]

/-- The peak step does not change the capture test of its own sample (R181). -/
theorem captured_peakStep (smp : Rssi) (now : Ms) (c : Cfg) (l : Ld) :
    captured smp c (l.peakStep smp now c) = captured smp c l := by
  unfold Ld.peakStep
  split
  · rename_i hr
    simp only [raisesPeak, Bool.and_eq_true, decide_eq_true_eq] at hr
    simp [captured, show ¬ smp.toNat < l.peak.toNat by omega]
  · rfl

/-- When a tick starts a lap (R183, R186): on a capture in Waiting, or in Running with the gate open. -/
theorem Ld.transition_starts (smp : Rssi) (now : Ms) (c : Cfg) (l : Ld) :
    (l.transition smp now c).2 =
      match l.state with
      | .stopped => false
      | .waiting => captured smp c l
      | .running => gateOpen now c l && captured smp c l := by
  rw [← captured_peakStep smp now c l]
  rcases Ld.transition_cases smp now c l with
    ⟨hs, e⟩ | ⟨hs, h, e⟩ | ⟨hs, h, e⟩ | ⟨hs, hg, h, e⟩ | ⟨hs, hg, h, e⟩ | ⟨hs, hg, e⟩ <;> rw [e, hs] <;> simp [*]

/-- Where the sample cursor points, the newest sample is found one tick later (R61). -/
theorem sampleCursor_back (c : Fin 100) : c + 1 + 99 = c := by
  apply Fin.ext; simp [Fin.val_add]; omega

/-- Where the lap cursor points, the newest lap is found one lap later (R63). -/
theorem lapCursor_back (c : Fin 50) : c + 1 + 49 = c := by
  apply Fin.ext; simp [Fin.val_add]; omega

/-- The detector's part of a tick changes its registers and may output LAPSTART, nothing else. -/
theorem State.detect_eq (s : State) (smp : Rssi) (now : Ms) :
    s.detect smp now =
      { s with ld := (s.ld.transition smp now s.cfg).1
               trace := s.trace ++ (if (s.ld.transition smp now s.cfg).2 then [.notify .lapStart] else []) } := by
  unfold State.detect
  split <;> simp_all [State.setLd, State.emit]

/-- `ReadRssi()` changes the environment's draws alone. -/
theorem afterReadRssi_eq (s : State) :
    afterReadRssi s = { s with env :=
      if s.rx.retuned then s.env else { s.env with adcIn := s.env.adcIn.tail, adcDraws := s.env.adcDraws + 1 } } := by
  unfold afterReadRssi
  split <;> simp_all [State.takeAdc]

/-- A tick leaves the sample ring and its cursor as the sample path left them. -/
theorem Ld.transition_frame (smp : Rssi) (now : Ms) (c : Cfg) (l : Ld) :
    (l.transition smp now c).1.rssiRam = l.rssiRam ∧ (l.transition smp now c).1.rssiCur = l.rssiCur := by
  have hp := Ld.peakStep_eq smp now c l
  rcases Ld.transition_cases smp now c l with
    ⟨_, e⟩ | ⟨_, _, e⟩ | ⟨_, _, e⟩ | ⟨_, _, _, e⟩ | ⟨_, _, _, e⟩ | ⟨_, _, e⟩ <;> rw [e] <;> (try rw [hp]) <;>
    exact ⟨rfl, rfl⟩

/-- A tick whose filter step has a value, as one update. -/
theorem execLdUpdate_some {now : Ms} {s : State} {k : Kf} (hk : filterStep (readRssi s) s.kf = some k) :
    exec (.ldUpdate now) s =
      let r := (s.ld.storeSample (round8 k.est)).transition (round8 k.est) now s.cfg
      .next { s with
        kf := k
        ld := r.1
        env := if s.rx.retuned then s.env else { s.env with adcIn := s.env.adcIn.tail, adcDraws := s.env.adcDraws + 1 }
        trace := s.trace ++ ((if r.2 then [.notify .lapStart] else []) ++ [.rsp s.cur ⟨.ok, (round8 k.est).setWidth 32⟩]) } := by
  simp only [exec, execLdUpdate, hk]
  rw [State.detect_eq, afterReadRssi_eq]
  simp only [State.respond_eq, State.emit, State.setLd, State.setKf, List.append_assoc]

/-- A tick whose filter step faults. -/
theorem execLdUpdate_none {now : Ms} {s : State} (hk : filterStep (readRssi s) s.kf = none) :
    exec (.ldUpdate now) s = .next (afterReadRssi s).enterFaulted := by
  simp only [exec, execLdUpdate, hk]

end Sys2Proof.Machine
end

