-- ==== Sys2Proof/Laws/Filter.lean ====
section
/-! SUPPORT. The filter step: its three cases (R160), the denominator (R164) and the gain (R163). -/

namespace Sys2Proof.Machine

/-- The denominator is 0 exactly when the covariance and both noises are 0 (R164). -/
theorem Kf.den_eq_zero_iff (k : Kf) : k.den = 0 ↔ k.cov = 0 ∧ k.pnoise = 0 ∧ k.mnoise = 0 := by
  have z : (0 : Q16).toNat = 0 := rfl
  simp only [Kf.den, Kf.pcov, ← BitVec.toNat_inj, z]
  omega

theorem filterStep_seed {m : Rssi} {k : Kf} (h : k.init = false) :
    filterStep m k = some { k with init := true, est := BitVec.ofInt 32 (measured m), cov := k.mnoise } := by
  simp [filterStep, h]

theorem filterStep_fault {m : Rssi} {k : Kf} (h : k.init = true) (hd : k.den = 0) : filterStep m k = none := by
  simp [filterStep, h, hd]

theorem filterStep_step {m : Rssi} {k : Kf} (h : k.init = true) (hd : k.den ≠ 0) :
    filterStep m k = some { k with est := BitVec.ofInt 32 (k.nextEst m), cov := BitVec.ofNat 32 k.nextCov } := by
  simp [filterStep, h, hd]

/-- Everything a filter step can do. -/
theorem filterStep_cases (m : Rssi) (k : Kf) :
    (k.init = false ∧
      filterStep m k = some { k with init := true, est := BitVec.ofInt 32 (measured m), cov := k.mnoise }) ∨
    (k.init = true ∧ k.den = 0 ∧ filterStep m k = none) ∨
    (k.init = true ∧ k.den ≠ 0 ∧
      filterStep m k = some { k with est := BitVec.ofInt 32 (k.nextEst m), cov := BitVec.ofNat 32 k.nextCov }) := by
  by_cases h : k.init = true
  · by_cases hd : k.den = 0
    · exact .inr (.inl ⟨h, hd, filterStep_fault h hd⟩)
    · exact .inr (.inr ⟨h, hd, filterStep_step h hd⟩)
  · have h := Bool.eq_false_of_not_eq_true h
    exact .inl ⟨h, filterStep_seed h⟩

/-- A step never changes the noise registers, and leaves the filter initialised. -/
theorem filterStep_frame {m : Rssi} {k k' : Kf} (h : filterStep m k = some k') :
    k'.init = true ∧ k'.mnoise = k.mnoise ∧ k'.pnoise = k.pnoise := by
  rcases filterStep_cases m k with ⟨_, e⟩ | ⟨_, _, e⟩ | ⟨hi, _, e⟩ <;> rw [e] at h <;> cases h
  · exact ⟨rfl, rfl, rfl⟩
  · exact ⟨hi, rfl, rfl⟩

/-- A step faults exactly on a zero denominator after the seed (R164). -/
theorem filterStep_none {m : Rssi} {k : Kf} (h : filterStep m k = none) :
    k.init = true ∧ k.cov = 0 ∧ k.pnoise = 0 ∧ k.mnoise = 0 := by
  rcases filterStep_cases m k with ⟨_, e⟩ | ⟨hi, hd, _⟩ | ⟨_, _, e⟩
  · rw [e] at h; cases h
  · exact ⟨hi, k.den_eq_zero_iff.mp hd⟩
  · rw [e] at h; cases h

/-- The gain is at most 1.0 (R163 item 1). -/
theorem Kf.gain_le (k : Kf) : k.gain ≤ 65536 := by
  unfold Kf.gain Config.one
  by_cases hd : k.den = 0
  · simp [hd]
  · apply Nat.div_le_of_le_mul
    have : k.pcov ≤ k.den := Nat.le_add_right ..
    nlinarith

/-- The floored correction lies between 0 and the whole difference (R163 item 2). -/
theorem scaled_between (g : Nat) (hg : g ≤ 65536) (d : Int) :
    min 0 d ≤ (g : Int) * d / 65536 ∧ (g : Int) * d / 65536 ≤ max 0 d := by
  have h0 : (0 : Int) ≤ g := Int.natCast_nonneg g
  have h1 : (g : Int) ≤ 65536 := by exact_mod_cast hg
  rcases le_total 0 d with hd | hd
  · rw [min_eq_left hd, max_eq_right hd]
    constructor
    · exact Int.ediv_nonneg (mul_nonneg h0 hd) (by norm_num)
    · apply Int.ediv_le_of_le_mul (by norm_num); nlinarith
  · rw [min_eq_right hd, max_eq_left hd]
    constructor
    · apply Int.le_ediv_of_mul_le (by norm_num); nlinarith
    · apply Int.ediv_le_of_le_mul (by norm_num); nlinarith

/-- What a sound filter is: legal noises, a bounded covariance, an initialised estimate within 0..255. -/
theorem filterOk_iff (k : Kf) :
    filterOk k = true ↔
      k.mnoise.toNat < 2 ^ 28 ∧ k.pnoise.toNat < 2 ^ 28 ∧ k.cov.toNat < 2 ^ 29 ∧
      (k.init = false ∨ (0 ≤ k.est.toInt ∧ k.est.toInt ≤ 255 * 65536)) := by
  have limit : ∀ n : Nat, decide (n < Config.noiseLimit) = true ↔ n < 2 ^ 28 := fun n => decide_eq_true_iff
  simp only [filterOk, Bool.and_eq_true, limit, decide_eq_true_eq, Bool.or_eq_true, Bool.not_eq_true', and_assoc]

end Sys2Proof.Machine
end

