-- ==== Sys2Proof/Laws/PerInstr.lean ====
section
/-! SUPPORT. Statements made of each command as syntax, one lemma for each constructor. `FixedZero`: the word of the command
has its row's opcode (R83) and a zero `RSV` field (R82). -/

namespace Sys2Proof.Laws.FixedZero

/-- The opcode of a command (R83). -/
def opcodeOf : Instr → BitVec 8
  | .rxInit => 0x10
  | .rxSetfreq _ _ => 0x11
  | .rxHfc _ _ => 0x12
  | .rxReadrssi => 0x13
  | .kfFilter _ => 0x20
  | .kfSetmnoise _ => 0x21
  | .kfSetpnoise _ => 0x22
  | .ldStart => 0x30
  | .ldStop => 0x31
  | .ldUpdate _ => 0x32
  | .ldGetrssi => 0x33
  | .ldGetlap => 0x34
  | .ldIslapavail => 0x35
  | .cfgMinlap _ => 0x40
  | .cfgEnter _ => 0x41
  | .cfgExit _ => 0x42
  | .cfgFreq _ => 0x43

/-- The word of `i` carries `i`'s opcode and a zero `RSV` field. -/
def Statement (i : Instr) : Prop := opcField (encode i) = opcodeOf i ∧ rsvField (encode i) = 0

theorem rxInit : Statement .rxInit := ⟨opcField_pack .., rsvField_pack ..⟩
theorem rxSetfreq (f : Mhz) (t : Ms) : Statement (.rxSetfreq f t) := ⟨opcField_pack .., rsvField_pack ..⟩
theorem rxHfc (f : Mhz) (t : Ms) : Statement (.rxHfc f t) := ⟨opcField_pack .., rsvField_pack ..⟩
theorem rxReadrssi : Statement .rxReadrssi := ⟨opcField_pack .., rsvField_pack ..⟩
theorem kfFilter (m : Rssi) : Statement (.kfFilter m) := ⟨opcField_pack .., rsvField_pack ..⟩
theorem kfSetmnoise (v : BitVec 28) : Statement (.kfSetmnoise v) := ⟨opcField_pack .., rsvField_pack ..⟩
theorem kfSetpnoise (v : BitVec 28) : Statement (.kfSetpnoise v) := ⟨opcField_pack .., rsvField_pack ..⟩
theorem ldStart : Statement .ldStart := ⟨opcField_pack .., rsvField_pack ..⟩
theorem ldStop : Statement .ldStop := ⟨opcField_pack .., rsvField_pack ..⟩
theorem ldUpdate (t : Ms) : Statement (.ldUpdate t) := ⟨opcField_pack .., rsvField_pack ..⟩
theorem ldGetrssi : Statement .ldGetrssi := ⟨opcField_pack .., rsvField_pack ..⟩
theorem ldGetlap : Statement .ldGetlap := ⟨opcField_pack .., rsvField_pack ..⟩
theorem ldIslapavail : Statement .ldIslapavail := ⟨opcField_pack .., rsvField_pack ..⟩
theorem cfgMinlap (t : Ms) : Statement (.cfgMinlap t) := ⟨opcField_pack .., rsvField_pack ..⟩
theorem cfgEnter (l : Rssi) : Statement (.cfgEnter l) := ⟨opcField_pack .., rsvField_pack ..⟩
theorem cfgExit (l : Rssi) : Statement (.cfgExit l) := ⟨opcField_pack .., rsvField_pack ..⟩
theorem cfgFreq (f : Mhz) : Statement (.cfgFreq f) := ⟨opcField_pack .., rsvField_pack ..⟩

end Sys2Proof.Laws.FixedZero
end

