-- ==== Sys2Proof/Laws/Ports.lean ====
section
/-! SUPPORT. What one step of the block can do: every command answers a next state, and one inversion lemma each for a turn
of a port and for the step. -/

namespace Sys2Proof.Machine

/-- The next state of a command. -/
def after (i : Instr) (s : State) : State :=
  match exec i s with
  | .next t => t
  | .fault _ => s
  | .refused _ => s

/-- The state in which port `p` executes: the port named, its queue as given, itself free. -/
def entered (p : Port) (q : List Cmd) (s : State) : State := (s.setCur p).setPort p { queue := q, busy := .idle }

@[simp] theorem entered_cur (p : Port) (q : List Cmd) (s : State) : (entered p q s).cur = p := by cases p <;> rfl
@[simp] theorem entered_port (p : Port) (q : List Cmd) (s : State) :
    (entered p q s).port p = { queue := q, busy := .idle } := by cases p <;> rfl
@[simp] theorem entered_port_other (p : Port) (q : List Cmd) (s : State) :
    (entered p q s).port p.other = s.port p.other := by cases p <;> rfl

/-- The bus is held exactly when the other port is in the middle of a bus command (R73). -/
theorem State.busHeld_iff (s : State) : s.busHeld = true ↔ ∃ f, (s.port s.cur.other).busy = .running f := by
  unfold State.busHeld
  cases (s.port s.cur.other).busy <;> simp

/-- Everything a turn of port `p` can do. -/
theorem runPort_cases {whole : Bool} {p : Port} {s t : State} (h : runPort whole p s = .next t) :
    t = s ∨
    (∃ f, (s.port p).busy = .running f ∧ t = advance f (s.setCur p)) ∨
    ((s.port p).busy.flying = none ∧ ∃ q,
      (∃ i, exec i (entered p q s) = .next t) ∨
      (∃ i ops, busProgram i = some ops ∧
        ((entered p q s).busHeld = true ∧ t = (entered p q s).waitForBus i ∨
          (entered p q s).busHeld = false ∧ t = advance (Flight.start ops) (entered p q s))) ∨
      (∃ st, t = (entered p q s).respond st 0)) := by
  have issue_cases : ∀ (i : Instr) (u : State), issue whole i u = .next t →
      (exec i u = .next t) ∨ (∃ ops, busProgram i = some ops ∧
        (u.busHeld = true ∧ t = u.waitForBus i ∨ u.busHeld = false ∧ t = advance (Flight.start ops) u)) := by
    intro i u hi
    unfold issue at hi
    split at hi
    · exact .inl hi
    · split at hi
      · exact .inl hi
      · rename_i ops ho
        right
        refine ⟨ops, ho, ?_⟩
        injection hi with hi
        cases hb : u.busHeld
        · right; simpa [hb] using hi.symm
        · left; simpa [hb] using hi.symm
  unfold runPort at h
  split at h
  · rename_i f hf
    right; left
    injection h with h
    exact ⟨f, hf, h.symm⟩
  · rename_i i hw
    split at h
    · left; injection h with h; exact h.symm
    · right; right
      refine ⟨by rw [hw]; rfl, (s.port p).queue, ?_⟩
      have e : (s.setCur p).setBusy p .idle = entered p (s.port p).queue s := by cases p <;> rfl
      rw [e] at h
      rcases issue_cases _ _ h with h | ⟨ops, h⟩
      · exact .inl ⟨i, h⟩
      · exact .inr (.inl ⟨i, ops, h⟩)
  · rename_i hb
    split at h
    · left; injection h with h; exact h.symm
    · rename_i w q hq
      right; right
      refine ⟨by rw [hb]; rfl, q, ?_⟩
      have e : (s.setCur p).setQueue p q = entered p q s := by
        cases p <;> simp_all [entered, State.setQueue, State.setPort, State.setCur]
      rw [e] at h
      unfold accept at h
      split at h
      · rcases issue_cases _ _ h with h | ⟨ops, h⟩
        · exact .inl ⟨_, h⟩
        · exact .inr (.inl ⟨_, ops, h⟩)
      · right; right
        injection h with h
        exact ⟨_, h.symm⟩

/-- Everything a step that answers a next state can do: nothing, a reset, or a turn of a port. -/
theorem step_cases {s t : State} (h : step s = .next t) :
    (∃ r, t = s.setSched r) ∨ (∃ r, t = (s.setSched r).rst) ∨
    (∃ r whole p, s.faulted = none ∧ runPort whole p (s.setSched r) = .next t) := by
  have turn : ∀ whole p r, turnOf whole p (s.setSched r) = .next t →
      (∃ r, t = s.setSched r) ∨ (∃ r whole p, s.faulted = none ∧ runPort whole p (s.setSched r) = .next t) := by
    intro whole p r ht
    unfold turnOf at ht
    split at ht
    · left; injection ht with ht; exact ⟨r, ht.symm⟩
    · rename_i hf
      right
      refine ⟨r, whole, p, ?_, ht⟩
      simpa using hf
  unfold step stepBlock at h
  split at h
  · rcases turn _ _ _ h with h | h
    · exact .inl h
    · exact .inr (.inr h)
  · rcases turn _ _ _ h with h | h
    · exact .inl h
    · exact .inr (.inr h)
  · right; left; injection h with h; exact ⟨_, h.symm⟩
  · rename_i hs
    have e : s.setSched [] = s := by
      unfold State.setSched
      rw [← hs]
    split at h
    · cases h
    · rename_i hf
      split at h
      · right; right
        exact ⟨[], true, _, hf, by rw [e]; exact h⟩
      · left; injection h with h
        exact ⟨[], by rw [e]; exact h.symm⟩

end Sys2Proof.Machine
end

