-- ==== Sys2Proof/Laws/Receiver.lean ====
section
/-! SUPPORT. What the shared operations of the receiver leave: the wake and power-down frames, `SetFreqCore` on each path
(R120), and the tests of `RX_HFC` (R125). -/

namespace Sys2Proof.Machine

@[simp] theorem Config.powerDownFreq_eq : Config.powerDownFreq = (1111 : Mhz) := rfl

/-- The wake frames, as one update. -/
theorem State.busWrites_wake (s : State) :
    s.busWrites Config.wakeSeq =
      { s with
        pins := { s.pins with sel := true, data := false, clk := false }
        trace := s.trace ++ [.frame (.write 0xF 0x00000)]
        busWaits := s.busWaits + 75 } := rfl

/-- The power-down frames, as one update. -/
theorem State.busWrites_powerDown (s : State) :
    s.busWrites Config.pdSeq =
      { s with
        pins := { s.pins with sel := true, data := false, clk := false }
        trace := s.trace ++ [.frame (.write 0xA 0xFFFFF)]
        busWaits := s.busWaits + 75 } := rfl

/-- `SetFreqCore` of the sentinel: the power-down path (R120). -/
theorem setFreqCore_powerDown (now : Ms) (s : State) :
    setFreqCore Config.powerDownFreq now s =
      { s with
        rx := { s.rx with curFreq := 1111, pwrDown := true }
        pins := { s.pins with sel := true, data := false, clk := false }
        trace := s.trace ++ [.frame (.write 0xA 0xFFFFF)]
        busWaits := s.busWaits + 75 } := rfl

/-- `SetFreqCore` of any other frequency: the wake path if the module is down, and the tuning path (R120). -/
theorem setFreqCore_tune {f : Mhz} (h : f ≠ Config.powerDownFreq) (now : Ms) (s : State) :
    setFreqCore f now s =
      { s with
        rx := { curFreq := f, retuned := true, retuneTs := now, pwrDown := false }
        pins := { s.pins with sel := true, data := false, clk := false }
        trace := s.trace ++ ((if s.rx.pwrDown then [Obs.frame (.write 0xF 0x00000)] else []) ++
          [.frame (.write 0x1 (tuneData f))])
        busWaits := s.busWaits + (if s.rx.pwrDown then 150 else 75) } := by
  obtain ⟨⟨cf, rt, ts, pd⟩, _⟩ := s
  have h : ¬ f = 1111#16 := h
  cases pd <;> simp [setFreqCore, h] <;>
    simp [State.setRx, State.busWrite, State.emit, State.wait, State.setPins, State.busWrites, Pins.endWrite,
      Config.wakeSeq, Config.tuneAddr, Config.selActive, Config.frameWaits]

/-- Just after a tuning write the settle test fails: no time has passed (R125). -/
theorem settleDue_fresh (now : Ms) (r : Rxd) (h : r.retuneTs = now) : settleDue now r = false := by
  simp [settleDue, settleOk, elapsed, h, Config.settleMs]

/-- An admitted frequency: the sentinel or one of the tuning range (R111). -/
theorem admitted_iff (f : Mhz) : admitted f = true ↔ f = 1111 ∨ (479 ≤ f.toNat ∧ f.toNat ≤ 33246) := by
  simp only [admitted, inTuningRange, Bool.or_eq_true, Bool.and_eq_true, decide_eq_true_eq, beq_iff_eq]
  rfl

/-- The cells of a write frame (R115). -/
theorem BusFrame.write_getLsbD (a : BusAddr) (d : BusData) (k : Nat) :
    (BusFrame.write a d).word.getLsbD k =
      if k < 4 then a.getLsbD k else if k < 5 then true else d.getLsbD (k - 5) := by
  change BitVec.getLsbD (w := 20 + 1 + 4) (d ++ 1#1 ++ a) k = _
  simp only [BitVec.getLsbD_append]
  rcases Nat.lt_or_ge k 4 with h | h
  · simp [h]
  rcases Nat.eq_or_lt_of_le h with rfl | h2
  · simp
  · have h3 : ¬ k - 4 < 1 := by omega
    have e : k - 4 - 1 = k - 5 := by omega
    simp [Nat.not_lt.mpr h, Nat.not_lt.mpr h2, h3, e]

/-- The cells of a read frame (R115, R118). -/
theorem BusFrame.read_getLsbD (a : BusAddr) (d : BusData) (k : Nat) :
    (BusFrame.read a d).word.getLsbD k =
      if k < 4 then a.getLsbD k else if k < 5 then false else d.getLsbD (k - 5) := by
  change BitVec.getLsbD (w := 20 + 1 + 4) (d ++ 0#1 ++ a) k = _
  simp only [BitVec.getLsbD_append]
  rcases Nat.lt_or_ge k 4 with h | h
  · simp [h]
  rcases Nat.eq_or_lt_of_le h with rfl | h2
  · simp
  · have h3 : ¬ k - 4 < 1 := by omega
    have e : k - 4 - 1 = k - 5 := by omega
    simp [Nat.not_lt.mpr h, Nat.not_lt.mpr h2, h3, e]

/-- Cell k of a frame is bit k of its integer (R115). -/
theorem BusFrame.cells_getElem (f : BusFrame) {k : Nat} (h : k < 25) : f.cells[k]? = some (f.word.getLsbD k) := by
  simp [BusFrame.cells, Config.frameCells, h]

/-- H1's guard (R125). -/
theorem retuneDue_iff {f : Mhz} {now : Ms} {r : Rxd} :
    retuneDue f now r = true ↔ f ≠ r.curFreq ∧ 30 ≤ (now - r.retuneTs).toNat := by
  simp only [retuneDue, quietOk, elapsed, Bool.and_eq_true, bne_iff_ne]
  exact and_congr Iff.rfl decide_eq_true_iff

/-- H2's guard (R125). -/
theorem settleDue_iff {now : Ms} {r : Rxd} :
    settleDue now r = true ↔ r.retuned = true ∧ 35 ≤ (now - r.retuneTs).toNat := by
  simp only [settleDue, settleOk, elapsed, Bool.and_eq_true]
  exact and_congr Iff.rfl decide_eq_true_iff

/-- `SetFreqCore` on either path: the RXD registers, the pins as a write frame leaves them, and 75 waits a frame. -/
theorem setFreqCore_frame (f : Mhz) (now : Ms) (s : State) :
    ∃ fs : List BusFrame, setFreqCore f now s =
      { s with
        rx := s.rx.tuned f now
        pins := s.pins.endWrite
        trace := s.trace ++ fs.map Obs.frame
        busWaits := s.busWaits + 75 * fs.length } := by
  by_cases h : f = Config.powerDownFreq
  · subst h
    exact ⟨[.write 0xA 0xFFFFF], rfl⟩
  · refine ⟨(if s.rx.pwrDown then [.write 0xF 0x00000] else []) ++ [.write 0x1 (tuneData f)], ?_⟩
    rw [setFreqCore_tune h]
    cases hp : s.rx.pwrDown <;> simp [Rxd.tuned, show ¬ f = 1111#16 from h] <;> rfl

/-- H1 of `RX_HFC`: nothing, or `SetFreqCore`. -/
theorem hfcChange_frame (f : Mhz) (now : Ms) (s : State) :
    ∃ (fs : List BusFrame) (p : Pins), (p = s.pins ∨ p = s.pins.endWrite) ∧ hfcChange f now s =
      { s with
        rx := if retuneDue f now s.rx then s.rx.tuned f now else s.rx
        pins := p
        trace := s.trace ++ fs.map Obs.frame
        busWaits := s.busWaits + 75 * fs.length } := by
  unfold hfcChange
  split
  · obtain ⟨fs, e⟩ := setFreqCore_frame f now s
    exact ⟨fs, s.pins.endWrite, .inr rfl, e⟩
  · exact ⟨[], s.pins, .inl rfl, by simp⟩

/-- H2 and H3 of `RX_HFC`: `RETUNED` cleared where the settle test passes, and at most one read frame. -/
theorem hfcSettle_frame (now : Ms) (s : State) :
    ∃ (fs : List BusFrame) (p : Pins) (e : Env), (p = s.pins ∨ p = s.pins.endRead) ∧
      (e = s.env ∨ e = { s.env with readIn := s.env.readIn.tail, readDraws := s.env.readDraws + 1 }) ∧
      hfcSettle now s =
        { s with
          rx := if settleDue now s.rx then { s.rx with retuned := false } else s.rx
          pins := p
          env := e
          trace := s.trace ++ fs.map Obs.frame
          busWaits := s.busWaits + 75 * fs.length } := by
  unfold hfcSettle
  split
  · split
    · exact ⟨[.read 0x1 s.env.nextRead], s.pins.endRead, _, .inr rfl, .inr rfl, rfl⟩
    · refine ⟨[], s.pins, s.env, .inl rfl, .inl rfl, ?_⟩
      simp [State.clearRetuned, State.setRx]
  · exact ⟨[], s.pins, s.env, .inl rfl, .inl rfl, by simp⟩

/-- Everything a bus command can do: wait, answer an illegal operand, or run: the RXD registers go where its program takes
them, its frames are sent, and one response follows. -/
theorem busCommand_frame {i : Instr} {s t : State}
    (hi : i = .rxInit ∨ (∃ f now, i = .rxSetfreq f now) ∨ ∃ f now, i = .rxHfc f now) (h : exec i s = .next t) :
    (i.wellFormed = true ∧ s.busHeld = true ∧ t = s.waitForBus i) ∨
    (i.wellFormed = false ∧ t = s.respond .illegalOperand 0) ∨
    (i.wellFormed = true ∧ s.busHeld = false ∧
      ∃ (ops : List BusOp) (p : Pins) (e : Env) (fs : List BusFrame) (v : BitVec 32), busProgram i = some ops ∧
        (s.pins = Pins.idleLevels → p = Pins.idleLevels) ∧
        (e = s.env ∨ e = { s.env with readIn := s.env.readIn.tail, readDraws := s.env.readDraws + 1 }) ∧
        t = { s with
          rx := ops.foldl BusOp.onRxd s.rx
          pins := p
          env := e
          trace := s.trace ++ (fs.map Obs.frame ++ [.rsp s.cur ⟨.ok, v⟩])
          busWaits := s.busWaits + 75 * fs.length }) := by
  have written : ∀ p : Pins, p = Pins.idleLevels → p.endWrite = Pins.idleLevels := by rintro _ rfl; rfl
  have readBack : ∀ p : Pins, p = Pins.idleLevels → p.endRead = Pins.idleLevels := by rintro _ rfl; rfl
  rcases hi with rfl | ⟨f, now, rfl⟩ | ⟨f, now, rfl⟩
  · simp only [exec, execRxInit, Host.Outcome.next.injEq] at h
    unfold busCommand at h
    split at h
    · exact .inl ⟨rfl, ‹_›, h.symm⟩
    · rename_i hb
      right; right
      refine ⟨rfl, by simpa using hb, _, Pins.idleLevels, s.env, [.write 0xF 0x00000, .write 0xA 0xFFFFF], 0, rfl,
        fun _ => rfl, .inl rfl, ?_⟩
      rw [← h]
      change State.respond .ok 0 (initCore s) = _
      unfold initCore
      rw [setFreqCore_powerDown, State.busWrites_wake]
      simp only [State.respond_eq, State.emit, List.append_assoc, State.setPwrDown, State.setRx, State.idlePins,
        State.setPins]
      rfl
  · simp only [exec, execRxSetfreq, withFreq, Host.Outcome.next.injEq] at h
    split at h
    · rename_i hw
      unfold busCommand at h
      split at h
      · exact .inl ⟨hw, ‹_›, h.symm⟩
      · rename_i hb
        right; right
        obtain ⟨fs, e⟩ := setFreqCore_frame f now s
        refine ⟨hw, by simpa using hb, [.seg (.tune f now)], s.pins.endWrite, s.env, fs, 0, by simp [busProgram, hw],
          written _, .inl rfl, ?_⟩
        rw [← h]
        change State.respond .ok 0 (setFreqCore f now s) = _
        rw [e]
        simp only [State.respond_eq, State.emit, List.append_assoc]
        rfl
    · rename_i hw
      exact .inr (.inl ⟨Bool.eq_false_of_not_eq_true hw, h.symm⟩)
  · simp only [exec, execRxHfc, withFreq, Host.Outcome.next.injEq] at h
    split at h
    · rename_i hw
      unfold busCommand at h
      split at h
      · exact .inl ⟨hw, ‹_›, h.symm⟩
      · rename_i hb
        right; right
        obtain ⟨fs, p, hp, e⟩ := hfcChange_frame f now s
        obtain ⟨fs', p', e', hp', he', hs⟩ := hfcSettle_frame now (hfcChange f now s)
        rw [e] at he' hp'
        refine ⟨hw, by simpa using hb, [.seg (.change f now), .seg (.settle now)], p', e', fs ++ fs',
          hfcReport f now s, by simp [busProgram, hw], ?_, he', ?_⟩
        · intro hi
          have h1 : p = Pins.idleLevels := by
            rcases hp with rfl | rfl
            · exact hi
            · exact written _ hi
          rcases hp' with rfl | rfl
          · exact h1
          · exact readBack _ h1
        · rw [← h]
          change State.respond .ok (hfcReport f now s) (hfcSettle now (hfcChange f now s)) = _
          rw [hs, e]
          simp only [State.respond_eq, State.emit, List.append_assoc, List.map_append, List.length_append, Nat.mul_add,
            Nat.add_assoc]
          rfl
    · rename_i hw
      exact .inr (.inl ⟨Bool.eq_false_of_not_eq_true hw, h.symm⟩)

end Sys2Proof.Machine
end

