-- ==== Sys2Proof/Laws/Sequencer.lean ====
section
/-! SUPPORT. The bus commands one atomic action at a time: what an action leaves alone, that an action and all it leads to
do to the RXD registers what `BusOp.onRxd` says, and what the 76 moves of a whole frame do (R71, R116 to R120). -/

namespace Sys2Proof.Machine

/-- One action of a flight, with the flight beside the state; with nothing left, nothing. -/
def act (x : State × Flight) : State × Flight :=
  match x.2.todo with
  | [] => x
  | .seg g :: rest => runSegment g { x.2 with todo := rest } x.1
  | .frame q :: rest => driveFrame q rest x.2 x.1

/-- What one action may change: the RXD registers, the pins and `SEQ`, the outputs, the waits, and the read-back draws. -/
theorem act_frame (x : State × Flight) :
    (act x).1 = { x.1 with
      rx := (act x).1.rx
      pins := (act x).1.pins
      seq := (act x).1.seq
      env := (act x).1.env
      trace := (act x).1.trace
      busWaits := (act x).1.busWaits } ∧
    ((act x).1.env = x.1.env ∨
      (act x).1.env = { x.1.env with readIn := x.1.env.readIn.tail, readDraws := x.1.env.readDraws + 1 }) := by
  unfold act
  split
  · exact ⟨rfl, .inl rfl⟩
  · rename_i g rest _
    cases g with
    | idle => exact ⟨rfl, .inl rfl⟩
    | power d => exact ⟨rfl, .inl rfl⟩
    | tune f now => exact ⟨rfl, .inl rfl⟩
    | arm now => exact ⟨rfl, .inl rfl⟩
    | compare => exact ⟨rfl, .inl rfl⟩
    | change f now => unfold runSegment; dsimp only; split <;> exact ⟨rfl, .inl rfl⟩
    | settle now =>
      unfold runSegment
      dsimp only
      split
      · split <;> exact ⟨rfl, .inl rfl⟩
      · exact ⟨rfl, .inl rfl⟩
  · rename_i q rest _
    unfold driveFrame
    split
    · exact ⟨rfl, .inl rfl⟩
    · exact ⟨rfl, .inl rfl⟩
    · exact ⟨rfl, .inl rfl⟩
    · split
      · exact ⟨rfl, .inl rfl⟩
      · unfold endFrame
        split
        · exact ⟨rfl, .inl rfl⟩
        · exact ⟨rfl, .inr rfl⟩

/-- The event of a frame, with the bits it has read back (R116, R118). -/
def FrameReq.sent (rb : BusData) : FrameReq → BusFrame
  | .write a d => .write a d
  | .read a => .read a rb

/-- A phase of a frame leaves the RXD registers alone (R71, R116, R118), and keeps the frame at the head of the list and the
outputs as they are until the frame's end sends it. -/
theorem act_phase {q : FrameReq} {rest : List BusOp} {x : State × Flight} (h : x.2.todo = .frame q :: rest) :
    (act x).1.rx = x.1.rx ∧
    ((act x).2.todo = x.2.todo ∧ (act x).1.trace = x.1.trace ∨
      (act x).2.todo = rest ∧ (act x).1.trace = x.1.trace ++ [.frame (q.sent x.2.rb)]) := by
  have e : act x = driveFrame q rest x.2 x.1 := by unfold act; rw [h]
  rw [e]
  unfold driveFrame
  split
  · exact ⟨rfl, .inl ⟨rfl, rfl⟩⟩
  · exact ⟨rfl, .inl ⟨rfl, rfl⟩⟩
  · exact ⟨rfl, .inl ⟨rfl, rfl⟩⟩
  · split
    · exact ⟨rfl, .inl ⟨rfl, rfl⟩⟩
    · cases q <;> exact ⟨rfl, .inr ⟨rfl, rfl⟩⟩

/-- An advance with something left is the action, kept as the port's flight. -/
theorem advance_act {f : Flight} (h : f.todo ≠ []) (s : State) :
    advance f s = (act (s, f)).1.setBusy s.cur (.running (act (s, f)).2) := by
  rcases ht : f.todo with _ | ⟨op, rest⟩
  · exact absurd ht h
  · cases op <;> simp only [advance, act, ht]

/-- An advance with nothing left is the response. -/
theorem advance_done {f : Flight} (h : f.todo = []) (s : State) :
    advance f s = (s.setBusy s.cur .idle).respond .ok f.rep := by
  unfold advance; rw [h]

/-- The path after S1 takes the RXD registers where `SetFreqCore` takes them (R120). -/
theorem tunePath_onRxd (f : Mhz) (now : Ms) (r : Rxd) :
    (tunePath r.pwrDown f now).foldl BusOp.onRxd { r with curFreq := f } = r.tuned f now := by
  obtain ⟨cf, rt, ts, pd⟩ := r
  unfold tunePath Rxd.tuned
  split
  · rfl
  · cases pd <;> rfl

/-- An action does not change where the flight will leave the RXD registers. -/
theorem act_onRxd (x : State × Flight) :
    (act x).2.todo.foldl BusOp.onRxd (act x).1.rx = x.2.todo.foldl BusOp.onRxd x.1.rx := by
  unfold act
  split
  · rfl
  · rename_i g rest h
    rw [h]
    cases g with
    | idle => rfl
    | power d => rfl
    | arm now => rfl
    | compare => rfl
    | tune f now =>
      simp only [runSegment, List.foldl_append, List.foldl_cons]
      congr 1
      exact tunePath_onRxd f now x.1.rx
    | change f now =>
      simp only [runSegment, List.foldl_cons, BusOp.onRxd]
      split
      · simp only [List.foldl_append]
        congr 1
        exact tunePath_onRxd f now x.1.rx
      · rfl
    | settle now =>
      simp only [runSegment, List.foldl_cons, BusOp.onRxd]
      split
      · split <;> rfl
      · rfl
  · rename_i q rest h
    rw [h]
    unfold driveFrame
    split
    · simp [h, BusOp.onRxd]
    · simp [h, BusOp.onRxd]
    · simp [h, BusOp.onRxd]
    · split
      · simp [h, BusOp.onRxd]
      · unfold endFrame
        split <;> simp [BusOp.onRxd]

/-- `n` actions, one after another. -/
def acts : Nat → State × Flight → State × Flight
  | 0, x => x
  | n + 1, x => acts n (act x)

theorem acts_add (m n : Nat) (x : State × Flight) : acts (m + n) x = acts n (acts m x) := by
  induction m generalizing x with
  | zero => simp [acts]
  | succ m ih => rw [Nat.succ_add]; exact ih (act x)

/-- What the first `b` cells of a frame have read back. -/
def readSoFar (q : FrameReq) (drawn : BusData) : Nat → BusData
  | 0 => 0
  | b + 1 => if h : b < 25 then sampleBit q ⟨b, h⟩ drawn (readSoFar q drawn b) else readSoFar q drawn b

theorem readSoFar_write (a : BusAddr) (d drawn : BusData) (b : Nat) : readSoFar (.write a d) drawn b = 0 := by
  induction b with
  | zero => rfl
  | succ b ih => unfold readSoFar; split <;> simp [sampleBit, ih]

theorem readSoFar_read (a : BusAddr) (drawn : BusData) (b k : Nat) (hb : b ≤ 25) (hk : k < 20) :
    (readSoFar (.read a) drawn b).getLsbD k = (decide (k + 5 < b) && drawn.getLsbD k) := by
  induction b with
  | zero => simp [readSoFar]
  | succ b ih =>
    have hlt : b < 25 := by omega
    unfold readSoFar
    rw [dif_pos hlt]
    simp only [sampleBit]
    have ih := ih (by omega)
    by_cases e : k + 5 = b
    · have e' : b - 5 = k := by omega
      have h5 : 5 ≤ b := by omega
      have n1 : ¬ k + 5 < b := by omega
      have n2 : k + 5 < b + 1 := by omega
      cases hd : drawn.getLsbD k
      · simp [e', hd, ih]
      · simp only [h5, e', hd, true_and, if_true, BitVec.getLsbD_or, ih, BitVec.getLsbD_twoPow, hk, n2]
        simp
    · have same : decide (k + 5 < b + 1) = decide (k + 5 < b) := by
        apply decide_eq_decide.mpr; omega
      rw [same, ← ih]
      split
      · rename_i hc
        have hne : b - 5 ≠ k := by omega
        simp [BitVec.getLsbD_or, BitVec.getLsbD_twoPow, hne]
      · rfl

/-- A whole read frame has read back what the module drives (R118). -/
theorem readSoFar_read_all (a : BusAddr) (drawn : BusData) : readSoFar (.read a) drawn 25 = drawn := by
  apply BitVec.eq_of_getLsbD_eq
  intro k hk
  rw [readSoFar_read a drawn 25 k (by omega) hk]
  simp [show k + 5 < 25 by omega]

/-- A frame as one event: what it leaves of the state, and what it reads back (R116, R118). -/
def wholeFrame (q : FrameReq) (s : State) : State × BusData :=
  match q with
  | .write a d => (s.busWrite a d, 0)
  | .read a => (s.busRead a, s.env.nextRead)

/-- The state and the flight with a frame's cell `b` set up. -/
theorem acts_cell {q : FrameReq} {rest : List BusOp} {f : Flight} {s : State} (hf : f.todo = .frame q :: rest)
    (hs : s.seq = none) (b : Nat) (hb : b < 25) :
    (∃ p : Pins, ((∃ a d, q = .write a d) → p.dataOe = s.pins.dataOe) ∧
      acts (1 + 3 * b) (s, f) =
        ({ s with pins := p, seq := some ⟨f.frames, ⟨b, hb⟩, .setup⟩, busWaits := s.busWaits + 3 * b },
          { f with rb := readSoFar q s.env.nextRead b })) ∧
    ∀ j, j < 1 + 3 * b → (acts j (s, f)).2.todo ≠ [] := by
  induction b with
  | zero =>
    refine ⟨⟨cellPins q 0 { s.pins with sel := Config.selActive }, ?_, ?_⟩, ?_⟩
    · rintro ⟨a, d, rfl⟩; rfl
    · simp only [acts, act, hf, driveFrame, hs]; rfl
    · intro j hj
      have : j = 0 := by omega
      subst this; simp [acts, hf]
  | succ b ih =>
    have hb' : b < 25 := by omega
    obtain ⟨⟨p, hp, e⟩, hn⟩ := ih hb'
    have e1 : acts (1 + 3 * b + 1) (s, f) =
        ({ s with pins := { p with clk := true }, seq := some ⟨f.frames, ⟨b, hb'⟩, .high⟩,
                  busWaits := s.busWaits + 3 * b + 1 },
          { f with rb := readSoFar q s.env.nextRead b }) := by
      rw [acts_add, e]; simp only [acts, act, hf, driveFrame]; rfl
    have e2 : acts (1 + 3 * b + 2) (s, f) =
        ({ s with pins := { p with clk := false }, seq := some ⟨f.frames, ⟨b, hb'⟩, .low⟩,
                  busWaits := s.busWaits + 3 * b + 2 },
          { f with rb := readSoFar q s.env.nextRead (b + 1) }) := by
      rw [show 1 + 3 * b + 2 = (1 + 3 * b + 1) + 1 from rfl, acts_add, e1]
      simp only [acts, act, hf, driveFrame, readSoFar, dif_pos hb']
      rfl
    have e3 : acts (1 + 3 * b + 3) (s, f) =
        ({ s with pins := cellPins q ⟨b + 1, hb⟩ { p with clk := false }, seq := some ⟨f.frames, ⟨b + 1, hb⟩, .setup⟩,
                  busWaits := s.busWaits + 3 * b + 3 },
          { f with rb := readSoFar q s.env.nextRead (b + 1) }) := by
      rw [show 1 + 3 * b + 3 = (1 + 3 * b + 2) + 1 from rfl, acts_add, e2]
      simp only [acts, act, hf, driveFrame, dif_pos hb]
      rfl
    refine ⟨⟨cellPins q ⟨b + 1, hb⟩ { p with clk := false }, ?_, ?_⟩, ?_⟩
    · rintro ⟨a, d, rfl⟩; exact hp ⟨a, d, rfl⟩
    · rw [show 1 + 3 * (b + 1) = 1 + 3 * b + 3 by omega, e3, show 3 * (b + 1) = 3 * b + 3 by omega, ← Nat.add_assoc]
    · intro j hj
      have : j < 1 + 3 * b ∨ j = 1 + 3 * b ∨ j = 1 + 3 * b + 1 ∨ j = 1 + 3 * b + 2 := by omega
      rcases this with h | rfl | rfl | rfl
      · exact hn j h
      · rw [e]; simp [hf]
      · rw [e1]; simp [hf]
      · rw [e2]; simp [hf]

/-- A frame is 76 moves, and they leave what the frame as one event leaves (R6, R116, R118). -/
theorem acts_frame {q : FrameReq} {rest : List BusOp} {f : Flight} {s : State} (hf : f.todo = .frame q :: rest)
    (hs : s.seq = none) :
    acts 76 (s, f) = ((wholeFrame q s).1, { f with todo := rest, frames := f.frames + 1, rb := (wholeFrame q s).2 }) ∧
    ∀ j, j < 76 → (acts j (s, f)).2.todo ≠ [] := by
  obtain ⟨⟨p, hp, e⟩, hn⟩ := acts_cell hf hs 24 (by omega)
  have e1 : acts 74 (s, f) =
      ({ s with pins := { p with clk := true }, seq := some ⟨f.frames, 24, .high⟩, busWaits := s.busWaits + 73 },
        { f with rb := readSoFar q s.env.nextRead 24 }) := by
    rw [show 74 = (1 + 3 * 24) + 1 from rfl, acts_add, e]; simp only [acts, act, hf, driveFrame]; rfl
  have e2 : acts 75 (s, f) =
      ({ s with pins := { p with clk := false }, seq := some ⟨f.frames, 24, .low⟩, busWaits := s.busWaits + 74 },
        { f with rb := readSoFar q s.env.nextRead 25 }) := by
    rw [show 75 = 74 + 1 from rfl, acts_add, e1]
    simp only [acts, act, hf, driveFrame]
    rfl
  refine ⟨?_, ?_⟩
  · rw [show 76 = 75 + 1 from rfl, acts_add, e2]
    obtain ⟨sel, clk, data, oe⟩ := p
    cases q with
    | write a d =>
      have hp : oe = s.pins.dataOe := hp ⟨a, d, rfl⟩
      subst hp
      simp only [acts, act, hf, driveFrame, readSoFar_write]
      obtain ⟨rx, pins, seq⟩ := s
      cases hs
      rfl
    | read a =>
      simp only [acts, act, hf, driveFrame, readSoFar_read_all]
      obtain ⟨rx, pins, seq⟩ := s
      cases hs
      rfl
  · intro j hj
    have : j < 1 + 3 * 24 ∨ j = 1 + 3 * 24 ∨ j = 74 ∨ j = 75 := by omega
    rcases this with h | rfl | rfl | rfl
    · exact hn j h
    · rw [e]; simp [hf]
    · rw [e1]; simp [hf]
    · rw [e2]; simp [hf]

end Sys2Proof.Machine
end

