-- ==== Sys2Proof/Tests/Slice0.lean ====
section
/-! SUPPORT. The model's own tests: the operand check on ill-formed commands, the decoding of a written-out word for each
command, small one-step tests with results taken from spec/95_test_vectors.md or worked out by hand from the rules, and, for
each obligation with hypotheses, a witness that meets them. -/

open Sys2Proof Sys2Proof.Machine Sys2Proof.Claims

namespace Sys2Proof.Tests

/-! ## Helpers -/

/-- Reset, the filter the identity (41_filter.md R164), and read-backs on. -/
def base : State :=
  { State.reset with
    kf := { init := false, est := 0, cov := 0, mnoise := 0, pnoise := 0x10000 }
    env := { State.reset.env with verifyReadback := true } }

/-- `base` with the receiver as given. -/
def withRx (f : Mhz) (retuned : Bool) (ts : Ms) (down : Bool) (s : State) : State :=
  { s with rx := { curFreq := f, retuned := retuned, retuneTs := ts, pwrDown := down } }

/-- With one ADC sample presented. -/
def withAdc (a : Adc) (s : State) : State := { s with env := { s.env with adcIn := [a] } }

/-- With one read-back value presented. -/
def withReadBack (r : BusData) (s : State) : State := { s with env := { s.env with readIn := [r] } }

/-- With the thresholds 120 and 100 and a minimum lap of 3000 ms. -/
def withCfg (s : State) : State := { s with cfg := { minlap := 3000, enter := 120, exit := 100, freq := 0 } }

/-- With the detector in a state, tracking a peak, a lap started. -/
def tracking (st : LdState) (peak : Rssi) (ts start : Ms) (s : State) : State :=
  { s with ld := { s.ld with state := st, peak := peak, peakTs := ts, lapStart := start } }

/-- A filter that has been seeded. -/
def seeded (est cov mn pn : Q16) (s : State) : State :=
  { s with kf := { init := true, est := est, cov := cov, mnoise := mn, pnoise := pn } }

/-- The block with a word presented on a port and that port's turn. -/
def presented (p : Port) (whole : Bool) (w : Cmd) (s : State) : State :=
  (s.present p w).setSched [if whole then .whole p else .atom p]

/-- The block with P1 in the middle of a bus command. -/
def held (s : State) : State := s.setBusy .p1 (.running { todo := [.seg (.arm 5)], frames := 1, rep := 0, rb := 0 })

/-- The frame cell `b`, phase `ph`, of a write frame, as the sequencer stands in it. -/
def inFrame (r : FrameReq) (b : Fin 25) (ph : Phase) (s : State) : State :=
  { s with seq := some ⟨0, b, ph⟩, pins := pinsAt r b ph }

/-- The responses of a state's outputs, as (port, status, value). -/
def answers (s : State) : List (Port × Status × BitVec 32) :=
  s.trace.filterMap fun o => match o with | .rsp p r => some (p, r.status, r.value) | .frame _ => none | .notify _ => none

/-- The frames of a state's outputs. -/
def frames (s : State) : List BusFrame :=
  s.trace.filterMap fun o => match o with | .frame f => some f | .rsp _ _ => none | .notify _ => none

/-- The notifier events of a state's outputs. -/
def events (s : State) : List Event :=
  s.trace.filterMap fun o => match o with | .notify e => some e | .rsp _ _ => none | .frame _ => none

/-- The state after one step. -/
def stepped (s : State) : State :=
  match step s with
  | .next t => t
  | .fault _ => s
  | .refused _ => s

/-! ## Ill-formed commands (R88): each is refused by the check -/

theorem test_wf_setfreq_below : (Instr.rxSetfreq 478 0).wellFormed = false := by decide
theorem test_wf_setfreq_above : (Instr.rxSetfreq 33247 0).wellFormed = false := by decide
theorem test_wf_hfc_below : (Instr.rxHfc 478 0).wellFormed = false := by decide
theorem test_wf_hfc_zero : (Instr.rxHfc 0 0).wellFormed = false := by decide
theorem test_wf_cfgfreq_below : (Instr.cfgFreq 478).wellFormed = false := by decide
theorem test_wf_cfgfreq_above : (Instr.cfgFreq 33247).wellFormed = false := by decide
theorem test_wf_range_ends : (Instr.rxHfc 479 0).wellFormed = true ∧ (Instr.rxHfc 33246 0).wellFormed = true := by decide
theorem test_wf_sentinel : (Instr.cfgFreq 1111).wellFormed = true := by decide

/-! ## Decoding: words written out from R80 and R83, `OPC`, `RSV`, `F16`, `V32` -/

theorem test_decode_rxInit : decode (0x10#8 ++ 0x00#8 ++ 0x0000#16 ++ 0x00000000#32) = .ok .rxInit := rfl
theorem test_decode_rxSetfreq : decode (0x11#8 ++ 0x00#8 ++ 0x16A8#16 ++ 0x000003E8#32) = .ok (.rxSetfreq 5800 1000) := rfl
theorem test_decode_rxHfc : decode (0x12#8 ++ 0x00#8 ++ 0x16A8#16 ++ 0x0000001E#32) = .ok (.rxHfc 5800 30) := rfl
theorem test_decode_rxReadrssi : decode (0x13#8 ++ 0x00#8 ++ 0x0000#16 ++ 0x00000000#32) = .ok .rxReadrssi := rfl
theorem test_decode_kfFilter : decode (0x20#8 ++ 0x00#8 ++ 0x0000#16 ++ 0x00000096#32) = .ok (.kfFilter 150) := rfl
theorem test_decode_kfSetmnoise : decode (0x21#8 ++ 0x00#8 ++ 0x0000#16 ++ 0x00140000#32) = .ok (.kfSetmnoise 0x140000) := rfl
theorem test_decode_kfSetpnoise : decode (0x22#8 ++ 0x00#8 ++ 0x0000#16 ++ 0x0FFFFFFF#32) = .ok (.kfSetpnoise 0xFFFFFFF) := rfl
theorem test_decode_ldStart : decode (0x30#8 ++ 0x00#8 ++ 0x0000#16 ++ 0x00000000#32) = .ok .ldStart := rfl
theorem test_decode_ldStop : decode (0x31#8 ++ 0x00#8 ++ 0x0000#16 ++ 0x00000000#32) = .ok .ldStop := rfl
theorem test_decode_ldUpdate : decode (0x32#8 ++ 0x00#8 ++ 0x0000#16 ++ 0xFFFFFFFE#32) = .ok (.ldUpdate 0xFFFFFFFE) := rfl
theorem test_decode_ldGetrssi : decode (0x33#8 ++ 0x00#8 ++ 0x0000#16 ++ 0x00000000#32) = .ok .ldGetrssi := rfl
theorem test_decode_ldGetlap : decode (0x34#8 ++ 0x00#8 ++ 0x0000#16 ++ 0x00000000#32) = .ok .ldGetlap := rfl
theorem test_decode_ldIslapavail : decode (0x35#8 ++ 0x00#8 ++ 0x0000#16 ++ 0x00000000#32) = .ok .ldIslapavail := rfl
theorem test_decode_cfgMinlap : decode (0x40#8 ++ 0x00#8 ++ 0x0000#16 ++ 0x00000BB8#32) = .ok (.cfgMinlap 3000) := rfl
theorem test_decode_cfgEnter : decode (0x41#8 ++ 0x00#8 ++ 0x0000#16 ++ 0x000000FF#32) = .ok (.cfgEnter 255) := rfl
theorem test_decode_cfgExit : decode (0x42#8 ++ 0x00#8 ++ 0x0000#16 ++ 0x00000064#32) = .ok (.cfgExit 100) := rfl
theorem test_decode_cfgFreq : decode (0x43#8 ++ 0x00#8 ++ 0x16A8#16 ++ 0x00000000#32) = .ok (.cfgFreq 5800) := rfl
/-- One set bit in each fixed-zero field: `RSV`, `F16`, `V32[31:8]`, `V32[31:28]` (R82). -/
theorem test_decode_rsv : decode (0x11#8 ++ 0x01#8 ++ 0x16A8#16 ++ 0x000003E8#32) = .error .illegalField := rfl
theorem test_decode_f16 : decode (0x40#8 ++ 0x00#8 ++ 0x8000#16 ++ 0x00000BB8#32) = .error .illegalField := rfl
theorem test_decode_v32_8 : decode (0x20#8 ++ 0x00#8 ++ 0x0000#16 ++ 0x00000100#32) = .error .illegalField := rfl
theorem test_decode_v32_28 : decode (0x21#8 ++ 0x00#8 ++ 0x0000#16 ++ 0x10000000#32) = .error .illegalField := rfl
theorem test_decode_v32 : decode (0x43#8 ++ 0x00#8 ++ 0x16A8#16 ++ 0x00000001#32) = .error .illegalField := rfl
/-- The all-zero word, and a row's neighbours (R87). -/
theorem test_decode_zero : decode 0 = .error .illegalOpcode := rfl
theorem test_decode_gap : decode (0x14#8 ++ 0xFF#8 ++ 0x0000#16 ++ 0x00000000#32) = .error .illegalOpcode := rfl

/-! ## One step of each command -/

/-- 95_test_vectors.md 2.1: the encoder, the frames, and the wake and power-down frames. -/
theorem test_encoder : encodeFreq 5658 = 0x281D ∧ encodeFreq 33246 = 0xFF9F ∧ encodeFreq 480 = 0 := by decide
theorem test_frame_ints : (BusFrame.write 0x1 (tuneData 5917)).word = 0x543F1 ∧ (BusFrame.write 0xF 0).word = 0x1F ∧
    (BusFrame.write 0xA 0xFFFFF).word = 0x1FFFFFA := by decide

/-- 2.3 row 1. -/
theorem test_rxInit : let t := after .rxInit base
    frames t = [.write 0xF 0, .write 0xA 0xFFFFF] ∧ t.rx = ⟨1111, false, 0, true⟩ ∧ answers t = [(.p0, .ok, 0)] := by decide
/-- `RX_INIT` keeps `RETUNED` and `RETUNE_TS` (R121, N9). -/
theorem test_rxInit_keeps_retuned : (after .rxInit (withRx 5800 true 30 false base)).rx = ⟨1111, true, 30, true⟩ := by decide
/-- 2.3 corner: no change test, the frame is sent again. -/
theorem test_rxSetfreq : let t := after (.rxSetfreq 5800 1000) (withRx 5800 false 0 false base)
    frames t = [.write 0x1 0x02984] ∧ t.rx = ⟨5800, true, 1000, false⟩ := by decide
theorem test_rxSetfreq_refused : let t := after (.rxSetfreq 478 1000) base
    answers t = [(.p0, .illegalOperand, 0)] ∧ frames t = [] ∧ t.rx = base.rx := by decide
/-- 2.3 row 3: a wake and a tune, and no settling in the same command. -/
theorem test_rxHfc_retunes : let t := after (.rxHfc 5800 30) (withRx 1111 false 0 true base)
    frames t = [.write 0xF 0, .write 0x1 0x02984] ∧ t.rx = ⟨5800, true, 30, false⟩ ∧ answers t = [(.p0, .ok, 1)] := by decide
/-- 2.3 rows 6 and 10: a match and a mismatch; and the wrapped elapsed time of the corner vectors. -/
theorem test_rxHfc_settles :
    answers (after (.rxHfc 5800 0x13) (withReadBack 0x02984 (withRx 5800 true 0xFFFFFFF0 false base))) = [(.p0, .ok, 0x29846)] ∧
    answers (after (.rxHfc 5658 130) (withReadBack 0x12345 (withRx 5658 true 80 false base))) = [(.p0, .ok, 0x12345E)] := by
  decide
/-- 2.2: the clamp, and no draw while a retune is pending. -/
theorem test_rxReadrssi : let t := after .rxReadrssi (withAdc 4095 base)
    answers t = [(.p0, .ok, 255)] ∧ t.env.adcIn = [] ∧ t.env.adcDraws = 1 := by decide
theorem test_rxReadrssi_pending : let t := after .rxReadrssi (withAdc 4000 (withRx 5800 true 30 false base))
    answers t = [(.p0, .ok, 0)] ∧ t.env.adcIn = [4000] := by decide
/-- 2.4 K3 and K6: a step up, and the floor of a negative step. -/
theorem test_kfFilter : answers (after (.kfFilter 255) (seeded 0 0x10000 0x10000 0x10000 base)) = [(.p0, .ok, 0x00A9FF56)] := by
  decide
theorem test_kfFilter_floor : answers (after (.kfFilter 0) (seeded 0x10000 0x10000 0x10000 0x10000 base)) =
    [(.p0, .ok, 0x00005556)] := by decide
theorem test_kfSetmnoise : (after (.kfSetmnoise 0x140000) (seeded 7 8 9 10 base)).kf = ⟨true, 7, 8, 0x140000, 10⟩ := by decide
theorem test_kfSetpnoise : (after (.kfSetpnoise 0xFFFFFFF) (seeded 7 8 9 10 base)).kf = ⟨true, 7, 8, 9, 0xFFFFFFF⟩ := by decide
/-- 2.5 L1. -/
theorem test_ldStart : let t := after .ldStart base
    answers t = [(.p0, .ok, 1)] ∧ events t = [.start] ∧ t.ld.state = .waiting := by decide
theorem test_ldStart_ignored : let t := after .ldStart (tracking .running 9 8 7 base)
    answers t = [(.p0, .ok, 0)] ∧ events t = [] ∧ t.ld.peak = 9 := by decide
/-- R201: the rings are cleared, `LAP_START` is not. -/
theorem test_ldStop : let t := after .ldStop { (tracking .running 9 8 7 base) with
      ld := { (tracking .running 9 8 7 base).ld with rssiRam := [(3, 4)], lapRam := [(0, 5)], lapCur := 1, rssiCur := 4 } }
    t.ld = { base.ld with lapStart := 7 } ∧ events t = [.stop] := by decide
/-- E2 at now = 1040: the sample 90 captures the peak of 1030. -/
theorem test_ldUpdate_captures :
    let t := after (.ldUpdate 1040) (withAdc 720 (withCfg (tracking .waiting 150 1030 0 base)))
    t.ld.state = .running ∧ t.ld.lapStart = 1030 ∧ t.ld.peak = 0 ∧ t.ld.peakTs = 0 ∧ events t = [.lapStart] ∧
    answers t = [(.p0, .ok, 90)] := by decide
/-- E8: a lap across the wrap of the time base, 0x500 - 0xFFFFF000 = 0x1500. -/
theorem test_ldUpdate_lap :
    let t := after (.ldUpdate 0x510) (withAdc 400 (withCfg (tracking .running 200 0x500 0xFFFFF000 base)))
    t.ld.lapRam = [(0, 0x1500)] ∧ t.ld.lapCur = 1 ∧ t.ld.lapAvail = true ∧ t.ld.lapStart = 0x500 := by decide
/-- R205 on an empty ring, and the newest entry when the cursor has wrapped. -/
theorem test_ldGetrssi : answers (after .ldGetrssi { base with ld := { base.ld with rssiRam := [(99, 70)] } }) =
    [(.p0, .ok, 70)] := by decide
/-- 2.5 L6: `LAP_CUR` = 0 reads slot 49. -/
theorem test_ldGetlap : let t := after .ldGetlap { base with ld := { base.ld with lapRam := [(49, 3001)], lapAvail := true } }
    answers t = [(.p0, .ok, 3001)] ∧ t.ld.lapAvail = false ∧ t.ld.lapRam = [(49, 3001)] := by decide
theorem test_ldIslapavail : answers (after .ldIslapavail { base with ld := { base.ld with lapAvail := true } }) =
    [(.p0, .ok, 1)] := by decide
theorem test_cfgMinlap : (after (.cfgMinlap 0xFFFFFFFF) (withCfg base)).cfg = ⟨0xFFFFFFFF, 120, 100, 0⟩ := by decide
theorem test_cfgEnter : (after (.cfgEnter 90) (withCfg base)).cfg = ⟨3000, 90, 100, 0⟩ := by decide
theorem test_cfgExit : (after (.cfgExit 90) (withCfg base)).cfg = ⟨3000, 120, 90, 0⟩ := by decide
theorem test_cfgFreq : (after (.cfgFreq 1111) (withCfg base)).cfg = ⟨3000, 120, 100, 1111⟩ := by decide

/-! ## The step -/

/-- The word the host places is the command the next step runs. -/
theorem test_fetch : answers (stepped (State.reset.withFetchWord 64 0x3000000000000000)) = [(.p0, .ok, 1)] := by decide
theorem test_fetch_illegal : answers (stepped (State.reset.withFetchWord 64 0)) = [(.p0, .illegalOpcode, 0)] := by decide
/-- An idle block stays as it is. -/
theorem test_idle_stays : step State.reset = .next State.reset := rfl
/-- In a turn of atomic grain `RX_SETFREQ` runs S1 alone: `CUR_FREQ` is written, no frame is out, no response is given. -/
theorem test_atom_s1 : let t := stepped (presented .p1 false 0x110016A8000003E8 base)
    t.rx = ⟨5800, false, 0, false⟩ ∧ t.trace = [] ∧ t.seq = none := by decide
/-- A command's first check that fails is the one reported (2.6): opcode before field, field before operand. -/
theorem test_check_order : answers (stepped (presented .p1 true 0x1101000000000000 base)) = [(.p1, .illegalField, 0)] := by decide

/-! ## Witnesses: for each obligation with hypotheses, states and operands that meet them -/

theorem test_witness_DecodeThenEncode : decode 0x110016A8000003E8 = .ok (.rxSetfreq 5800 1000) := rfl
theorem test_witness_UnassignedOpcodes :
    ∀ o ∈ ([0x00, 0x0F, 0x14, 0x1F, 0x23, 0x2F, 0x36, 0x3F, 0x44, 0xFF] : List (BitVec 8)),
      let w := pack o 0 0
      let o := (opcField w).toNat
      o ≤ 0x0F ∨ (0x14 ≤ o ∧ o ≤ 0x1F) ∨ (0x23 ≤ o ∧ o ≤ 0x2F) ∨ (0x36 ≤ o ∧ o ≤ 0x3F) ∨ 0x44 ≤ o := by decide
theorem test_witness_StepRuns_whole :
    Accepts (presented .p0 true 0x1000000000000000 base) .p0 true 0x1000000000000000 [] [] ∧
    decode 0x1000000000000000 = .ok .rxInit := ⟨⟨rfl, rfl, rfl, rfl⟩, rfl⟩
theorem test_witness_StepRuns_atom :
    Accepts (presented .p1 false 0x3000000000000000 base) .p1 false 0x3000000000000000 [] [] ∧
    decode 0x3000000000000000 = .ok .ldStart ∧ busProgram .ldStart = none := ⟨⟨rfl, rfl, rfl, rfl⟩, rfl, rfl⟩
theorem test_witness_StepRuns_fetch : decodeTableWord 64 0x3000000000000000 = some .ldStart := rfl
theorem test_witness_PortAnswers_opcode :
    Accepts (presented .p0 true 0 base) .p0 true 0 [] [] ∧ ∀ row ∈ tableRows, row.1 ≠ opcodePart 0 := by
  refine ⟨⟨rfl, rfl, rfl, rfl⟩, ?_⟩
  simp only [tableRows, List.forall_mem_cons, List.not_mem_nil, false_imp_iff, implies_true, and_true]
  repeat' apply And.intro
  all_goals decide
theorem test_witness_PortAnswers_field :
    Accepts (presented .p0 true 0x1101000000000000 base) .p0 true 0x1101000000000000 [] [] ∧
    (0x1100000000000000, 0xFFFF000000000000) ∈ tableRows ∧ (0x1100000000000000 : Cmd) = opcodePart 0x1101000000000000 ∧
    (0x1101000000000000 &&& 0xFFFF000000000000 : Cmd) ≠ 0x1100000000000000 :=
  ⟨⟨rfl, rfl, rfl, rfl⟩, by simp [tableRows], by decide, by decide⟩
theorem test_witness_PortAnswers_operand :
    Accepts (presented .p0 false 0x1100000000000000 base) .p0 false 0x1100000000000000 [] [] ∧
    (0x1100000000000000 &&& 0xFFFF000000000000 : Cmd) = 0x1100000000000000 ∧
    decode 0x1100000000000000 = .ok (.rxSetfreq 0 0) ∧ (Instr.rxSetfreq 0 0).wellFormed = false :=
  ⟨⟨rfl, rfl, rfl, rfl⟩, by decide, rfl, by decide⟩
theorem test_witness_PortAnswers_run :
    Accepts (presented .p1 false 0x1000000000000000 base) .p1 false 0x1000000000000000 [] [] ∧
    (0x1000000000000000 &&& 0xFFFFFFFFFFFFFFFF : Cmd) = 0x1000000000000000 ∧ drivesBus .rxInit = true ∧
    (accepted (presented .p1 false 0x1000000000000000 base) .p1 [] []).busHeld = false :=
  ⟨⟨rfl, rfl, rfl, rfl⟩, by decide, rfl, rfl⟩
theorem test_witness_P0First_p0 : let s := (base.present .p0 0).present .p1 0
    s.faulted = none ∧ s.env.sched = [] ∧ s.ready .p0 = true ∧ s.ready .p1 = true := by decide
theorem test_witness_P0First_p1 : let s := base.present .p1 0
    s.faulted = none ∧ s.env.sched = [] ∧ s.ready .p0 = false ∧ s.ready .p1 = true := by decide
theorem test_witness_P0First_idle : base.faulted = none ∧ base.env.sched = [] ∧ base.ready .p0 = false ∧
    base.ready .p1 = false := by decide
theorem test_witness_BusyBus_waits : drivesBus (.rxHfc 479 0) = true ∧ (Instr.rxHfc 479 0).wellFormed = true ∧
    (held base).busHeld = true := by decide
theorem test_witness_BusyBus_stays : let s := ((held base).setBusy .p0 (.waiting .rxInit)).setSched [.whole .p0]
    s.faulted = none ∧ s.env.sched = [.whole .p0] ∧ (s.port .p0).busy = .waiting .rxInit ∧
    ∃ f, (s.port Port.p0.other).busy = .running f := ⟨rfl, rfl, rfl, _, rfl⟩
theorem test_witness_BusyBus_starts : let s := (base.setBusy .p0 (.waiting .rxInit)).setSched [.whole .p0]
    s.faulted = none ∧ (s.port .p0).busy = .waiting .rxInit ∧ ∀ f, (s.port Port.p0.other).busy ≠ .running f :=
  ⟨rfl, rfl, by intro f h; cases h⟩
theorem test_witness_BusyBus_accepts : let s := presented .p0 false 0x1000000000000000 (held base)
    Accepts s .p0 false 0x1000000000000000 [] [] ∧ decode 0x1000000000000000 = .ok .rxInit ∧ drivesBus .rxInit = true ∧
    Instr.rxInit.wellFormed = true ∧ ∃ f, (s.port Port.p0.other).busy = .running f :=
  ⟨⟨rfl, rfl, rfl, rfl⟩, rfl, rfl, rfl, _, rfl⟩
theorem test_witness_BusyBus_resumes : let s := (base.setBusy .p0 (.waiting .rxInit)).setSched [.atom .p0]
    s.faulted = none ∧ s.env.sched = turn false .p0 :: [] ∧ (s.port .p0).busy = .waiting .rxInit ∧
    (∀ f, (s.port Port.p0.other).busy ≠ .running f) ∧ (held s).busHeld = true :=
  ⟨rfl, rfl, rfl, (by intro f h; cases h), rfl⟩
theorem test_witness_SegmentedRun : let s := base.present .p1 0x120016A80000001E
    s.faulted = none ∧ s.seq = none ∧ (s.port .p1).busy = .idle ∧ (∀ f, (s.port Port.p1.other).busy ≠ .running f) ∧
    (s.port .p1).queue = [0x120016A80000001E] ∧ decode 0x120016A80000001E = .ok (.rxHfc 5800 30) ∧
    drivesBus (.rxHfc 5800 30) = true ∧ (Instr.rxHfc 5800 30).wellFormed = true :=
  ⟨rfl, rfl, rfl, (by intro f h; cases h), rfl, rfl, rfl, by decide⟩
theorem test_witness_ResetTurn : (base.setSched [.reset, .whole .p0]).env.sched = [.reset, .whole .p0] := rfl
theorem test_witness_Faulted : let s := { base with faulted := some (.filterDivZero .p0) }
    s.faulted = some (.filterDivZero .p0) ∧ s.env.sched = [] ∧ (s.setSched [.whole .p1]).env.sched = [.whole .p1] ∧
    (s.setSched [.atom .p1]).env.sched = [.atom .p1] ∧ (s.setSched [.reset]).env.sched = [.reset] := by decide
/-- 2.4 K7: both noises 0, a seeded estimate; with and without a pending retune. -/
theorem test_witness_ZeroDenominator : let s := seeded 0x70000 0 0 0 base
    s.kf.init = true ∧ s.kf.cov = 0 ∧ s.kf.pnoise = 0 ∧ s.kf.mnoise = 0 ∧ s.rx.retuned = false ∧
    (withRx 5800 true 0 false s).rx.retuned = true := by decide
theorem test_witness_FaultedOnly : let s := seeded 0x70000 0 0 0 base
    ∃ t, exec (.kfFilter 8) s = .next t ∧ t.faulted ≠ s.faulted := ⟨_, rfl, by decide⟩
theorem test_witness_Encoder_ends : 479 ≤ (479 : Mhz).toNat ∧ (479 : Mhz).toNat ≤ 33246 ∧ 479 ≤ (33246 : Mhz).toNat ∧
    (33246 : Mhz).toNat ≤ 33246 := by decide
theorem test_witness_EncoderProperties : 479 ≤ (5799 : Mhz).toNat ∧ (5800 : Mhz).toNat ≤ 33246 ∧
    (5800 : Mhz).toNat = (5799 : Mhz).toNat + 1 ∧ ((5799 : Mhz).toNat - 479) % 2 = 0 := by decide
theorem test_witness_RxInit : base.busHeld = false := rfl
theorem test_witness_RxSetfreqTunes : base.busHeld = false ∧ 479 ≤ (479 : Mhz).toNat ∧ (479 : Mhz).toNat ≤ 33246 ∧
    (479 : Mhz) ≠ 1111 := by decide
theorem test_witness_RxSetfreqPowersDown : (withRx 5800 true 30 false base).busHeld = false := rfl
theorem test_witness_RxHfcRetunes : let s := withRx 1111 false 0xFFFFFFF0 true base
    s.busHeld = false ∧ (5800 : Mhz) ≠ 1111 ∧ 5800 ≠ s.rx.curFreq ∧ 30 ≤ ((0x0E : Ms) - s.rx.retuneTs).toNat := by decide
theorem test_witness_RxHfcPowersDown : let s := withRx 5800 true 100 false base
    s.busHeld = false ∧ 1111 ≠ s.rx.curFreq ∧ 30 ≤ ((130 : Ms) - s.rx.retuneTs).toNat := by decide
theorem test_witness_RxHfcSettles : let s := withRx 5800 true 30 false base
    s.busHeld = false ∧ admitted s.rx.curFreq = true ∧ s.rx.retuned = true ∧ 35 ≤ ((65 : Ms) - s.rx.retuneTs).toNat ∧
    s.env.verifyReadback = true ∧ s.rx.pwrDown = false ∧ (withRx 1111 true 30 true base).rx.pwrDown = true ∧
    admitted (withRx 1111 true 30 true base).rx.curFreq = true := by decide
theorem test_witness_RxHfcChangesNothing : let s := withRx 5800 true 30 false base
    s.busHeld = false ∧ admitted 5658 = true ∧ ((59 : Ms) - s.rx.retuneTs).toNat < 30 ∧
    ((59 : Ms) - s.rx.retuneTs).toNat < 35 ∧ admitted 5800 = true ∧ (5800 : Mhz) = s.rx.curFreq ∧
    ((64 : Ms) - s.rx.retuneTs).toNat < 35 := by decide
theorem test_witness_ReportWord : base.busHeld = false ∧ admitted 33246 = true := by decide
theorem test_witness_ReadRssi : (withRx 5800 true 30 false base).rx.retuned = true ∧ base.rx.retuned = false := by decide
theorem test_witness_Sequencer : let r := FrameReq.write 0x1 0x02984
    (Flight.start [.frame r]).todo = [.frame r] ∧ base.seq = none ∧ base.pins = Claims.idle ∧
    (inFrame r 0 .setup base).seq = some ⟨0, 0, .setup⟩ ∧ (inFrame r 0 .setup base).pins = pinsAt r 0 .setup ∧
    (inFrame r 0 .high base).pins = pinsAt r 0 .high ∧ (1 : Fin 25).val = (0 : Fin 25).val + 1 ∧
    (inFrame r 0 .low base).pins = pinsAt r 0 .low ∧ (inFrame r 24 .low base).seq = some ⟨0, 24, .low⟩ ∧
    (inFrame r 24 .low base).pins = pinsAt r 24 .low := by decide
theorem test_witness_KfFilter : stepDefined base.kf ∧ stepDefined (seeded 5 0 1 0 base).kf := by
  refine ⟨.inl rfl, .inr (by decide)⟩
theorem test_witness_FilterStep : base.kf.init = false ∧ (seeded 0 0 0 0 base).kf.init = true ∧
    (seeded 0 0 0 0 base).kf.den = 0 ∧ (seeded 0 0 0 1 base).kf.den ≠ 0 := by decide
/-- 2.4 K5: the largest noises. -/
theorem test_witness_FilterBounds : let k := (seeded 0xFF0000 0x0FFFFFFF 0x0FFFFFFF 0x0FFFFFFF base).kf
    filterOk k = true ∧ ∃ k', filterStep 0 k = some k' := ⟨by decide, _, rfl⟩
theorem test_witness_IdentityFilter : base.kf.mnoise = 0 ∧ base.kf.pnoise ≠ 0 := by decide
theorem test_witness_Round8 : 0 ≤ (0xFF0000 : Q16).toInt ∧ (0xFF0000 : Q16).toInt ≤ 255 * 2 ^ 16 ∧ (0 : Q16).toInt = 0 := by decide
theorem test_witness_Noise : 2 ^ 28 ≤ (0x10000000 : BitVec 32).toNat := by decide
theorem test_witness_LdStart : base.ld.state = .stopped ∧ (tracking .waiting 0 0 0 base).ld.state ≠ .stopped := by decide
/-- Each row of the lifecycle table: Stopped; Waiting with and without a capture; Running with the gate open, with and
without a capture, and with the gate shut at its boundary (elapsed = `CFG_MINLAP`). -/
theorem test_witness_LdUpdate :
    let k : Kf := { base.kf with init := true, est := 90 <<< 16, cov := 0 }
    let s := withAdc 720 (withCfg base)
    stepDefined s.kf ∧ filterStep (readRssi s) s.kf = some k ∧ s.ld.state = .stopped ∧
    captured (round8 k.est) s.cfg (tracking .waiting 150 1030 0 s).ld = true ∧
    captured (round8 k.est) s.cfg (tracking .waiting 90 1030 0 s).ld = false ∧
    decide (s.cfg.minlap < 4001 - (tracking .running 150 4000 1000 s).ld.lapStart) = true ∧
    decide (s.cfg.minlap < 4000 - (tracking .running 150 4000 1000 s).ld.lapStart) = false :=
  ⟨.inl rfl, rfl, rfl, by decide, by decide, by decide, by decide⟩
theorem test_witness_SampleRing : let s := { base with ld := { base.ld with rssiCur := 99, rssiRam := [(0, 1), (99, 2)] } }
    stepDefined s.kf ∧ Memory.wf 100 s.ld.rssiRam = true := ⟨.inl rfl, by decide⟩
theorem test_witness_LapRing : Memory.wf 50 ([(0, 1), (49, 2)] : Memory 32) = true ∧ base.ld.lapCur = 0 := by decide
theorem test_witness_PeakCapture : let c : Cfg := { minlap := 0, enter := 120, exit := 100, freq := 0 }
    let l := (tracking .waiting 119 5 0 base).ld
    (c.enter.toNat ≤ (120 : Rssi).toNat ∧ l.peak.toNat < (120 : Rssi).toNat) ∧
    ¬ (c.enter.toNat ≤ (119 : Rssi).toNat ∧ l.peak.toNat < (119 : Rssi).toNat) ∧ (119 : Rssi) = l.peak ∧ base.ld.peak = 0 := by
  decide
theorem test_witness_LapDuration :
    let k : Kf := { base.kf with init := true, est := 50 <<< 16, cov := 0 }
    let s := withAdc 400 (withCfg (tracking .running 200 4001 1000 base))
    Memory.wf 50 s.ld.lapRam = true ∧ filterStep (readRssi s) s.kf = some k ∧ s.ld.state = .running ∧
    s.cfg.minlap < 4010 - s.ld.lapStart ∧ round8 k.est < s.ld.peak ∧ round8 k.est < s.cfg.exit :=
  ⟨by decide, rfl, rfl, by decide, by decide, by decide⟩
theorem test_witness_Degenerate :
    let c : Cfg := { minlap := 0, enter := 100, exit := 200, freq := 0 }
    let full : Cfg := { minlap := 0, enter := 255, exit := 0, freq := 0 }
    (c.enter < c.exit ∧ c.enter ≤ 140 ∧ (140 : Rssi) < (tracking .waiting 150 10 0 base).ld.peak ∧ (140 : Rssi) < c.exit) ∧
    full.exit = 0 ∧ full.enter = 255 ∧ (Ld.peakStep 255 9 full base.ld).peak ≠ base.ld.peak ∧
    ∃ t, exec (.ldUpdate 0) base = .next t ∧ base.cfg.exit = 0 :=
  ⟨by decide, rfl, rfl, by decide, _, rfl, rfl⟩
theorem test_witness_ConfigWrites : ((479 : Mhz) = 1111 ∨ (479 ≤ (479 : Mhz).toNat ∧ (479 : Mhz).toNat ≤ 33246)) ∧
    ((1111 : Mhz) = 1111) ∧ ¬ ((478 : Mhz) = 1111 ∨ (479 ≤ (478 : Mhz).toNat ∧ (478 : Mhz).toNat ≤ 33246)) ∧
    ¬ ((33247 : Mhz) = 1111 ∨ (479 ≤ (33247 : Mhz).toNat ∧ (33247 : Mhz).toNat ≤ 33246)) := by decide
theorem test_witness_ConfigFreqIsUnread : ∃ t, exec (.rxHfc 5800 30) base = .next t ∧ ∀ f, Instr.rxHfc 5800 30 ≠ .cfgFreq f :=
  ⟨_, rfl, by intro f h; cases h⟩
theorem test_witness_Writers : let s := withRx 5800 true 0 false base
    (∃ t, exec (.cfgEnter 1) s = .next t) ∧ drivesBus (.cfgEnter 1) = false ∧ s.rx.retuned = true ∧
    (∀ f now, Instr.cfgEnter 1 ≠ .rxHfc f now) ∧ (∀ m, Instr.cfgEnter 1 ≠ .kfFilter m) ∧
    (∀ now, Instr.cfgEnter 1 ≠ .ldUpdate now) ∧ (Instr.ldGetlap ≠ .ldStart ∧ Instr.ldGetlap ≠ .ldStop) :=
  ⟨⟨_, rfl⟩, rfl, rfl, (by intro f now h; cases h), (by intro m h; cases h), (by intro now h; cases h), by decide⟩
/-- `RX_INIT` and a tune to the sentinel are among the commands that write neither `RETUNE_TS` nor a set `RETUNED`. -/
theorem test_witness_Writers_timestamp : (∃ t, exec .rxInit base = .next t) ∧
    (∀ (f : Mhz) (now : Ms), f ≠ 1111 → Instr.rxInit ≠ .rxSetfreq f now ∧ Instr.rxInit ≠ .rxHfc f now) ∧
    ∀ (f : Mhz) (now : Ms), f ≠ 1111 → Instr.rxHfc 1111 7 ≠ .rxSetfreq f now ∧ Instr.rxHfc 1111 7 ≠ .rxHfc f now :=
  ⟨⟨_, rfl⟩, (by intro f now _; constructor <;> intro h <;> cases h),
    by intro f now hf; constructor <;> intro h <;> cases h; exact hf rfl⟩
theorem test_witness_OneResponse_done : ∃ t, base.faulted = none ∧ (base.port base.cur).busy = .idle ∧
    exec .ldStart base = .next t ∧ t.faulted = none ∧ (t.port base.cur).busy = .idle := ⟨_, rfl, rfl, rfl, rfl, rfl⟩
theorem test_witness_OneResponse_none : let s := seeded 0x70000 0 0 0 base
    ∃ t, exec (.kfFilter 8) s = .next t ∧ s.faulted = none ∧ t.faulted ≠ none := ⟨_, rfl, rfl, by decide⟩
theorem test_witness_Notifier : ∃ t u v, exec .ldStart base = .next t ∧ exec .ldStop base = .next u ∧
    exec (.ldUpdate 5) base = .next v := ⟨_, _, _, rfl, rfl, rfl⟩
/-- A tick that starts a lap from Waiting and one from Running, and one at the gate's boundary that does not. -/
theorem test_witness_Notifier_laps : let s := withAdc 720 (withCfg base)
    startsLap 1040 (tracking .waiting 150 1030 0 s) = true ∧ startsLap 4001 (tracking .running 150 1030 1000 s) = true ∧
    startsLap 4000 (tracking .running 150 1030 1000 s) = false := by decide
/-- Each segment due and not due, a frame, and a command with nothing left. -/
theorem test_witness_SegmentActions : let s := withRx 5800 true 30 false base
    (Flight.start [.frame (.read 0x1)]).todo = [.frame (.read 0x1)] ∧ (Flight.start []).todo = [] ∧
    (Flight.start [.seg .compare]).todo = [.seg .compare] ∧ admitted 479 = true ∧
    ((5658 : Mhz) ≠ s.rx.curFreq ∧ 30 ≤ ((60 : Ms) - s.rx.retuneTs).toNat) ∧ ((59 : Ms) - s.rx.retuneTs).toNat < 30 ∧
    (s.rx.retuned = true ∧ 35 ≤ ((65 : Ms) - s.rx.retuneTs).toNat) ∧ ((64 : Ms) - s.rx.retuneTs).toNat < 35 := by decide
theorem test_witness_RegistersFollow : let s := (withRx 1111 false 0 true base).present .p1 0x120016A80000001E
    s.faulted = none ∧ s.seq = none ∧ (s.port .p1).busy = .idle ∧ (∀ f, (s.port Port.p1.other).busy ≠ .running f) ∧
    (s.port .p1).queue = [0x120016A80000001E] ∧ decode 0x120016A80000001E = .ok (.rxHfc 5800 30) ∧
    drivesBus (.rxHfc 5800 30) = true ∧ (Instr.rxHfc 5800 30).wellFormed = true ∧ 5800 ≠ s.rx.curFreq ∧
    30 ≤ ((30 : Ms) - s.rx.retuneTs).toNat :=
  ⟨rfl, rfl, rfl, (by intro f h; cases h), rfl, rfl, rfl, by decide, by decide, by decide⟩
/-- The other branches: a tune by `RX_SETFREQ`, the sentinel, a request not due (one millisecond short), and `RX_INIT`. -/
theorem test_witness_RegistersFollow_branches :
    decode 0x110016A8000003E8 = .ok (.rxSetfreq 5800 1000) ∧ (5800 : Mhz) ≠ 1111 ∧
    decode 0x1100045700000000 = .ok (.rxSetfreq 1111 0) ∧ decode 0x120004570000001E = .ok (.rxHfc 1111 30) ∧
    (Instr.rxSetfreq 1111 0).wellFormed = true ∧ ((29 : Ms) - base.rx.retuneTs).toNat < 30 ∧
    decode 0x1000000000000000 = .ok .rxInit := ⟨rfl, by decide, rfl, rfl, by decide, by decide, rfl⟩
/-- The invariants: a step from a state that meets them all, with a bus command in the middle of a frame. -/
theorem test_witness_Invariants :
    let s := (inFrame (.write 0x1 0x02984) 24 .low ((withRx 5800 false 0 false base).setBusy .p1
      (.running { todo := [.frame (.write 0x1 0x02984), .seg (.arm 30)], frames := 0, rep := 1, rb := 0 }))).setSched [.atom .p1]
    ramOk s.ld = true ∧ filterOk s.kf = true ∧ detectorOk s.ld = true ∧ busOk s = true ∧ busOwnerOk s = true ∧
    pinsOk s = true ∧ ∃ t, step s = .next t :=
  ⟨by decide, by decide, by decide, by decide, by decide, by decide, _, rfl⟩

end Sys2Proof.Tests
end

section
/-! The rings of the detector: what one write of a sample (R61) and of a lap (R63) leaves in the RAM, where the newest entry
is read, and the two statements about them. -/

namespace Sys2Proof.Machine

/-! ### The RSSI ring -/

/-- The read address of the newest sample on numbers (R61). -/
theorem Ld.newestSample_eq_read (l : Ld) :
    l.newestSample = Memory.read ((l.rssiCur.val + 99) % 100) l.rssiRam := by
  rw [Ld.newestSample, Fin.val_add]; rfl

theorem Ld.storeSample_read_cursor (smp : Rssi) {l : Ld} (h : Memory.wf 100 l.rssiRam = true) :
    Memory.read l.rssiCur.val (l.storeSample smp).rssiRam = smp :=
  Memory.read_write_same h

theorem Ld.storeSample_read_other (smp : Rssi) {l : Ld} {j : Nat} (hj : j ≠ l.rssiCur.val) :
    Memory.read j (l.storeSample smp).rssiRam = Memory.read j l.rssiRam :=
  Memory.read_write_other hj

theorem Ld.storeSample_rssiCur_val (smp : Rssi) (l : Ld) :
    (l.storeSample smp).rssiCur.val = (l.rssiCur.val + 1) % 100 :=
  Fin.val_add l.rssiCur 1

/-- The cursor one past the write, moved on by 99, is back at the write. -/
theorem Ld.newestSample_storeSample (smp : Rssi) {l : Ld} (h : Memory.wf 100 l.rssiRam = true) :
    (l.storeSample smp).newestSample = smp := by
  have hback : (l.storeSample smp).rssiCur + 99 = l.rssiCur := sampleCursor_back l.rssiCur
  rw [Ld.newestSample, hback]
  exact Ld.storeSample_read_cursor smp h

/-- Where the next filter step is defined, it has a value for every measurement (R160, R164). -/
theorem exists_filterStep_of_stepDefined (m : Rssi) {k : Kf} (h : Claims.stepDefined k) :
    ∃ k', filterStep m k = some k' := by
  rcases h with hseed | hden
  · exact ⟨_, filterStep_seed hseed⟩
  · refine Option.ne_none_iff_exists'.mp fun hnone => ?_
    obtain ⟨_, hzero⟩ := filterStep_none hnone
    exact hden hzero

/-- What a tick with a value leaves of the sample ring: the write of its sample, which it answers last (R185, R203). -/
theorem execLdUpdate_sampleRing {now : Ms} {s : State} {k : Kf} (hk : filterStep (readRssi s) s.kf = some k) :
    ∃ t, exec (.ldUpdate now) s = .next t ∧
      t.trace.getLast? = some (.rsp s.cur ⟨.ok, (round8 k.est).setWidth 32⟩) ∧
      t.ld.rssiRam = (s.ld.storeSample (round8 k.est)).rssiRam ∧
      t.ld.rssiCur = (s.ld.storeSample (round8 k.est)).rssiCur := by
  obtain ⟨hram, hcur⟩ := Ld.transition_frame (round8 k.est) now s.cfg (s.ld.storeSample (round8 k.est))
  exact ⟨_, execLdUpdate_some hk, by simp, hram, hcur⟩

/-- Settles O41: the tick's ring is that of `storeSample`, since the lifecycle leaves the ring alone. -/
theorem sampleRingWrite : Obligations.SampleRingWrite := by
  intro now s hdef hwf
  obtain ⟨k, hk⟩ := exists_filterStep_of_stepDefined (readRssi s) hdef
  obtain ⟨t, hexec, hanswer, hram, hcur⟩ := execLdUpdate_sampleRing (now := now) hk
  have hnewest : t.ld.newestSample = round8 k.est := by
    rw [Ld.newestSample, hram, hcur]
    exact Ld.newestSample_storeSample _ hwf
  refine ⟨t, round8 k.est, hexec, hanswer, ?_, fun j hj => ?_, ?_, ?_, hnewest⟩
  · rw [hram]; exact Ld.storeSample_read_cursor _ hwf
  · rw [hram]; exact Ld.storeSample_read_other _ hj
  · rw [hcur]; exact Ld.storeSample_rssiCur_val _ _
  · rw [← Ld.newestSample_eq_read]; exact hnewest

/-! ### The lap ring -/

/-- The read address of the newest lap on numbers (R63). -/
theorem Ld.newestLap_eq_read (l : Ld) : l.newestLap = Memory.read ((l.lapCur.val + 49) % 50) l.lapRam := by
  rw [Ld.newestLap, Fin.val_add]; rfl

theorem Ld.finishLap_read_cursor {l : Ld} (h : Memory.wf 50 l.lapRam = true) :
    Memory.read l.lapCur.val l.finishLap.lapRam = l.peakTs - l.lapStart :=
  Memory.read_write_same h

theorem Ld.finishLap_read_other {l : Ld} {j : Nat} (hj : j ≠ l.lapCur.val) :
    Memory.read j l.finishLap.lapRam = Memory.read j l.lapRam :=
  Memory.read_write_other hj

theorem Ld.finishLap_lapCur_val (l : Ld) : l.finishLap.lapCur.val = (l.lapCur.val + 1) % 50 :=
  Fin.val_add l.lapCur 1

/-- The cursor one past the write, moved on by 49, is back at the write. -/
theorem Ld.newestLap_finishLap {l : Ld} (h : Memory.wf 50 l.lapRam = true) :
    l.finishLap.newestLap = l.peakTs - l.lapStart := by
  have hback : l.finishLap.lapCur + 49 = l.lapCur := lapCursor_back l.lapCur
  rw [Ld.newestLap, hback]
  exact Ld.finishLap_read_cursor h

/-- Settles O42: the four facts of `finishLap`, and the newest lap's address, which is 49 at cursor 0. -/
theorem lapRingWrite : Obligations.LapRingWrite := by
  refine ⟨fun l hwf => ⟨?_, ?_, ?_, ?_⟩, Ld.newestLap_eq_read, fun l hcur => ?_⟩
  · exact Ld.finishLap_read_cursor hwf
  · exact fun j hj => Ld.finishLap_read_other hj
  · exact Ld.finishLap_lapCur_val l
  · exact Ld.newestLap_finishLap hwf
  · rw [Ld.newestLap_eq_read, hcur]; rfl

end Sys2Proof.Machine
end

section
/-! The decoder against the opcode table (R82, R83, R86, R87): the opcode map and the table's rows list the same opcodes, each
operand form accepts exactly the words its row's mask and match accept, and the three statements about the encoding. -/

namespace Sys2Proof

open Claims Machine

/-! ### The decoder by the opcode it looks up -/

theorem decode_illegalOpcode_iff (w : Cmd) :
    decode w = .error .illegalOpcode ↔ opcodeMap.lookup (opcField w) = none := by
  unfold decode
  split
  case h_1 h => simp [h]
  case h_2 form h => cases form w <;> simp [h]

theorem decode_illegalField_iff {w : Cmd} {form : Cmd → Option Instr}
    (h : opcodeMap.lookup (opcField w) = some form) :
    decode w = .error .illegalField ↔ (form w).isSome = false := by
  rw [decode, h]
  cases hform : form w <;> simp [hform]

theorem decode_ok_iff {w : Cmd} {form : Cmd → Option Instr}
    (h : opcodeMap.lookup (opcField w) = some form) :
    (∃ i, decode w = .ok i) ↔ (form w).isSome = true := by
  rw [decode, h]
  cases hform : form w <;> simp [hform]

/-- The decoder refuses an opcode exactly when no entry of the map has it (R86, R87). -/
theorem decode_illegalOpcode_iff_notMem (w : Cmd) :
    decode w = .error .illegalOpcode ↔ opcField w ∉ opcodeMap.map Prod.fst := by
  rw [decode_illegalOpcode_iff, List.lookup_eq_none_iff]
  simp only [bne_iff_ne, List.mem_map, not_exists, not_and]
  exact forall₂_congr fun _ _ => ne_comm

/-! ### What a row of the table accepts -/

/-- The row's match is an opcode alone, and its mask fixes `OPC`, `RSV` and the given bits of `F16` and `V32` (R82). -/
abbrev RowFixes (row : Cmd × Cmd) (f16 : BitVec 16) (v32 : BitVec 32) : Prop :=
  row.1 = pack (opcField row.1) 0 0 ∧
    opcField row.2 = BitVec.allOnes 8 ∧ rsvField row.2 = BitVec.allOnes 8 ∧ f16Field row.2 = f16 ∧ v32Field row.2 = v32

theorem RowFixes.accepts_iff {row : Cmd × Cmd} {f16 : BitVec 16} {v32 : BitVec 32} (h : RowFixes row f16 v32) (w : Cmd) :
    w &&& row.2 = row.1 ↔
      opcField w = opcField row.1 ∧ rsvField w = 0 ∧ f16Field w &&& f16 = 0 ∧ v32Field w &&& v32 = 0 := by
  obtain ⟨hmatch, hopc, hrsv, hf16, hv32⟩ := h
  rw [hmatch, word_ext, opcField_pack, rsvField_pack, f16Field_pack, v32Field_pack, opcField_and, rsvField_and,
    f16Field_and, v32Field_and, hopc, hrsv, hf16, hv32, BitVec.and_allOnes, BitVec.and_allOnes]

/-- An operand form and a row of the table accept the same words. -/
def Agrees (form : Cmd → Option Instr) (row : Cmd × Cmd) : Prop :=
  ∀ w, w &&& row.2 = row.1 ↔ opcField w = opcField row.1 ∧ (form w).isSome = true

theorem noOperand_agrees {i : Instr} {row : Cmd × Cmd}
    (h : RowFixes row (BitVec.allOnes 16) (BitVec.allOnes 32)) : Agrees (noOperand i) row := fun w => by
  rw [h.accepts_iff, noOperand, Option.isSome_ite, BitVec.and_allOnes, BitVec.and_allOnes]

theorem freqAndTime_agrees {mk : Mhz → Ms → Instr} {row : Cmd × Cmd}
    (h : RowFixes row 0 0) : Agrees (freqAndTime mk) row := fun w => by
  rw [h.accepts_iff, freqAndTime, Option.isSome_ite]
  simp

theorem freqOnly_agrees {mk : Mhz → Instr} {row : Cmd × Cmd}
    (h : RowFixes row 0 (BitVec.allOnes 32)) : Agrees (freqOnly mk) row := fun w => by
  rw [h.accepts_iff, freqOnly, Option.isSome_ite, BitVec.and_allOnes]
  simp

theorem lowBits_agrees {n : Nat} {mk : BitVec n → Instr} {row : Cmd × Cmd}
    (h : RowFixes row (BitVec.allOnes 16) (BitVec.allOnes 32 <<< n)) (hn : n ≤ 32) : Agrees (lowBits n mk) row := fun w => by
  have hmask : ∀ i : Fin 32, (BitVec.allOnes 32 <<< n).getLsbD i = decide (n ≤ i.val) := fun i => by
    have hshift : i.val - n < 32 := by omega
    simp only [BitVec.getLsbD_shiftLeft, BitVec.getLsbD_allOnes, i.isLt, hshift, decide_true, Bool.true_and, Bool.and_true,
      ← decide_not, Nat.not_lt]
  rw [h.accepts_iff, lowBits, Option.isSome_ite, BitVec.and_allOnes, highMask_and_eq_zero n _ _ hmask hn]

/-! ### The table and the opcode map -/

/-- Row by row, the map holds at the row's opcode an operand form that accepts what the row accepts (R83). -/
theorem tableRows_agree :
    ∀ row ∈ tableRows, ∃ form, opcodeMap.lookup (opcField row.1) = some form ∧ Agrees form row := by
  simp only [tableRows, List.forall_mem_cons]
  exact
    ⟨⟨_, rfl, noOperand_agrees (by decide)⟩,
     ⟨_, rfl, freqAndTime_agrees (by decide)⟩,
     ⟨_, rfl, freqAndTime_agrees (by decide)⟩,
     ⟨_, rfl, noOperand_agrees (by decide)⟩,
     ⟨_, rfl, lowBits_agrees (by decide) (by decide)⟩,
     ⟨_, rfl, lowBits_agrees (by decide) (by decide)⟩,
     ⟨_, rfl, lowBits_agrees (by decide) (by decide)⟩,
     ⟨_, rfl, noOperand_agrees (by decide)⟩,
     ⟨_, rfl, noOperand_agrees (by decide)⟩,
     ⟨_, rfl, lowBits_agrees (by decide) (by decide)⟩,
     ⟨_, rfl, noOperand_agrees (by decide)⟩,
     ⟨_, rfl, noOperand_agrees (by decide)⟩,
     ⟨_, rfl, noOperand_agrees (by decide)⟩,
     ⟨_, rfl, lowBits_agrees (by decide) (by decide)⟩,
     ⟨_, rfl, lowBits_agrees (by decide) (by decide)⟩,
     ⟨_, rfl, lowBits_agrees (by decide) (by decide)⟩,
     ⟨_, rfl, freqOnly_agrees (by decide)⟩,
     List.forall_mem_nil _⟩

/-- The map and the table list the same opcodes. -/
theorem opcodeMap_opcodes : opcodeMap.map Prod.fst = tableRows.map fun row => opcField row.1 := rfl

theorem opcodePart_eq_pack (w : Cmd) : opcodePart w = pack (opcField w) 0 0 := by
  rw [opcodePart, word_ext, opcField_and, rsvField_and, f16Field_and, v32Field_and, opcField_pack, rsvField_pack,
    f16Field_pack, v32Field_pack]
  exact ⟨BitVec.and_allOnes, BitVec.and_zero, BitVec.and_zero, BitVec.and_zero⟩

theorem match_eq_opcodePart_iff {row : Cmd × Cmd} (hrow : row ∈ tableRows) (w : Cmd) :
    row.1 = opcodePart w ↔ opcField w = opcField row.1 := by
  have hmatch : ∀ row ∈ tableRows, row.1 = pack (opcField row.1) 0 0 := List.map_inj_left.mp rfl
  rw [opcodePart_eq_pack]
  constructor
  · intro h; rw [h, opcField_pack]
  · intro h; rw [h]; exact hmatch row hrow

/-- The opcode check against the table (R86, R87). -/
theorem decode_illegalOpcode_iff_table (w : Cmd) :
    decode w = .error .illegalOpcode ↔ ∀ row ∈ tableRows, row.1 ≠ opcodePart w := by
  rw [decode_illegalOpcode_iff_notMem, opcodeMap_opcodes, List.mem_map]
  constructor
  · intro h row hrow heq
    exact h ⟨row, hrow, ((match_eq_opcodePart_iff hrow w).mp heq).symm⟩
  · rintro h ⟨row, hrow, hopc⟩
    exact h row hrow ((match_eq_opcodePart_iff hrow w).mpr hopc.symm)

/-- Where a row of the table has the word's opcode, its mask decides between acceptance and a field error (R82, R86). -/
theorem decode_by_row {w : Cmd} {row : Cmd × Cmd} (hrow : row ∈ tableRows) (heq : row.1 = opcodePart w) :
    ((∃ i, decode w = .ok i) ↔ w &&& row.2 = row.1) ∧ (decode w = .error .illegalField ↔ w &&& row.2 ≠ row.1) := by
  have hopc := (match_eq_opcodePart_iff hrow w).mp heq
  obtain ⟨form, hlookup, hagrees⟩ := tableRows_agree row hrow
  rw [← hopc] at hlookup
  have hmask : w &&& row.2 = row.1 ↔ (form w).isSome = true := (hagrees w).trans (and_iff_right hopc)
  rw [decode_ok_iff hlookup, decode_illegalField_iff hlookup, Ne, hmask, Bool.not_eq_true]
  exact ⟨Iff.rfl, Iff.rfl⟩

/-- A row that accepts a word has its opcode, since every mask fixes `OPC` (R82). -/
theorem match_eq_opcodePart_of_accepts {w : Cmd} {row : Cmd × Cmd} (hrow : row ∈ tableRows) (h : w &&& row.2 = row.1) :
    row.1 = opcodePart w := by
  obtain ⟨form, -, hagrees⟩ := tableRows_agree row hrow
  exact (match_eq_opcodePart_iff hrow w).mpr ((hagrees w).mp h).1

/-- A word whose opcode the decoder does not refuse has a row of the table. -/
theorem exists_row_of_ne_illegalOpcode {w : Cmd} (h : decode w ≠ .error .illegalOpcode) :
    ∃ row ∈ tableRows, row.1 = opcodePart w := by
  rw [Ne, decode_illegalOpcode_iff_table] at h
  push Not at h
  exact h

/-- Settles O3: the opcode check is a search of the table, and the row found decides the rest. -/
theorem decodeFollowsOpcodeTable : Obligations.DecodeFollowsOpcodeTable := by
  intro w
  refine ⟨decode_illegalOpcode_iff_table w, ⟨fun hfield => ?_, ?_⟩, ⟨?_, ?_⟩, by simp [tableRows]⟩
  · obtain ⟨row, hrow, heq⟩ := exists_row_of_ne_illegalOpcode (w := w) (by simp [hfield])
    exact ⟨row, hrow, heq, (decode_by_row hrow heq).2.mp hfield⟩
  · rintro ⟨row, hrow, heq, hmask⟩
    exact (decode_by_row hrow heq).2.mpr hmask
  · rintro ⟨i, hok⟩
    obtain ⟨row, hrow, heq⟩ := exists_row_of_ne_illegalOpcode (w := w) (by simp [hok])
    exact ⟨row, hrow, (decode_by_row hrow heq).1.mp ⟨i, hok⟩⟩
  · rintro ⟨row, hrow, hmask⟩
    exact (decode_by_row hrow (match_eq_opcodePart_of_accepts hrow hmask)).1.mpr hmask

/-! ### Unassigned opcodes and the worked encodings -/

/-- A word the decoder refuses is answered by its status, and nothing else happens (R86, R89). -/
theorem accept_of_decode_error {e : DecodeError} {w : Cmd} (h : decode w = .error e) (whole : Bool) (s : State) :
    accept whole w s = .next { s with trace := s.trace ++ [.rsp s.cur ⟨refusalStatus e, 0⟩] } := by
  rw [accept, h]; rfl

/-- Settles O5: no opcode of the map lies in the ranges of R87. -/
theorem unassignedOpcodesAreIllegal : Obligations.UnassignedOpcodesAreIllegal := by
  intro whole s w o hrange
  have hnot : opcField w ∉ opcodeMap.map Prod.fst := by
    intro hmem
    have hassigned : ∀ c ∈ opcodeMap.map Prod.fst,
        ¬ (c.toNat ≤ 0x0F ∨ (0x14 ≤ c.toNat ∧ c.toNat ≤ 0x1F) ∨ (0x23 ≤ c.toNat ∧ c.toNat ≤ 0x2F) ∨
          (0x36 ≤ c.toNat ∧ c.toNat ≤ 0x3F) ∨ 0x44 ≤ c.toNat) := by decide
    exact hassigned _ hmem hrange
  have hdecode := (decode_illegalOpcode_iff_notMem w).mpr hnot
  exact ⟨hdecode, accept_of_decode_error hdecode whole s⟩

/-- Settles O4: 17 closed words, each encoded and decoded. -/
theorem workedEncodings : Obligations.WorkedEncodings := by
  unfold Obligations.WorkedEncodings
  decide

end Sys2Proof
end

section
/-! The receiver's encodings and tests: the bus-quiet and settle guards on the elapsed time (R123, R124), the synthesizer
register value (R112), the cells of a frame (R115), the report word of `RX_HFC` bit by bit (R127), and the four statements
about them. -/

namespace Sys2Proof.Machine

/-! ### The time guards -/

/-- `elapsed` on numbers: the difference modulo 2^32 (R12). -/
theorem elapsed_toNat (now ts : Ms) : (elapsed now ts).toNat = (now.toNat + 2 ^ 32 - ts.toNat) % 2 ^ 32 := by
  rw [elapsed, BitVec.toNat_sub]
  congr 1
  omega

/-- Settles O29: both tests compare `elapsed` with their constant. -/
theorem timeGuardsWrap : Obligations.TimeGuardsWrap := by
  intro now r e
  have he : (elapsed now r.retuneTs).toNat = e := elapsed_toNat now r.retuneTs
  constructor
  · rw [quietOk, he, decide_eq_true_iff, Config.busQuietMs]
  · rw [settleOk, he, decide_eq_true_iff, Config.settleMs]

/-! ### The register encoder -/

/-- The fields N and A, A below bit 7, as one 16-bit number. -/
theorem shiftLeft_or_toNat {n a : Nat} (hn : n < 2 ^ 9) (ha : a < 2 ^ 7) :
    (BitVec.ofNat 16 n <<< 7 ||| BitVec.ofNat 16 a).toNat = n * 2 ^ 7 + a := by
  have hn16 : n % 2 ^ 16 = n := Nat.mod_eq_of_lt (by omega)
  have ha16 : a % 2 ^ 16 = a := Nat.mod_eq_of_lt (by omega)
  have hshift : n <<< 7 % 2 ^ 16 = n <<< 7 := Nat.mod_eq_of_lt (by omega)
  rw [BitVec.toNat_or, BitVec.toNat_shiftLeft, BitVec.toNat_ofNat, BitVec.toNat_ofNat, hn16, ha16, hshift,
    ← Nat.shiftLeft_add_eq_or_of_lt ha, Nat.shiftLeft_eq]

/-- The register value of a frequency of the tuning range (R112): N above seven bits, A below. -/
theorem encodeFreq_toNat {f : Mhz} (hlo : 479 ≤ f.toNat) (hhi : f.toNat ≤ 33246) :
    (encodeFreq f).toNat = (f.toNat - 479) / 2 / 32 * 2 ^ 7 + (f.toNat - 479) / 2 % 32 := by
  have hrange : inTuningRange f = true := by simp [inTuningRange, Config.freqMin, Config.freqMax, hlo, hhi]
  rw [encodeFreq, if_pos hrange]
  simp only [Config.freqOffset]
  exact shiftLeft_or_toNat (by omega) (by omega)

/-- Settles O18: the three fields are read off the value on numbers. -/
theorem registerEncoderFormula : Obligations.RegisterEncoderFormula := by
  refine ⟨?_, by decide⟩
  intro f hlo hhi tf
  have htf : tf ≤ 16383 := by omega
  have hvalue : (encodeFreq f).toNat = tf / 32 * 2 ^ 7 + tf % 32 := encodeFreq_toNat hlo hhi
  refine ⟨htf, hvalue, ?_, BitVec.eq_of_toNat_eq ?_, ?_⟩ <;>
    rw [BitVec.extractLsb'_toNat, hvalue, Nat.shiftRight_eq_div_pow]
  · omega
  · change _ = 0
    omega
  · omega

/-! ### The cells of a frame -/

/-- A frame as a number: the address, the R/W bit and the data, each above the one before (R115). -/
theorem BusFrame.append_toNat (a : BusAddr) (rw : BitVec 1) (d : BusData) :
    (d ++ rw ++ a).toNat = a.toNat + rw.toNat * 2 ^ 4 + d.toNat * 2 ^ 5 := by
  rw [BitVec.toNat_append, BitVec.toNat_append, ← Nat.shiftLeft_add_eq_or_of_lt rw.isLt,
    ← Nat.shiftLeft_add_eq_or_of_lt a.isLt, Nat.shiftLeft_eq, Nat.shiftLeft_eq]
  omega

theorem BusFrame.cells_length (f : BusFrame) : f.cells.length = 25 := by
  simp [BusFrame.cells, Config.frameCells]

/-- The word of `f` has the address `a`, the R/W bit `rw` and the data `d` where R115 puts them. -/
def BusFrame.HasLayout (f : BusFrame) (a : BusAddr) (rw : Bool) (d : BusData) : Prop :=
  ∀ k, f.word.getLsbD k = if k < 4 then a.getLsbD k else if k < 5 then rw else d.getLsbD (k - 5)

theorem BusFrame.write_hasLayout (a : BusAddr) (d : BusData) : (BusFrame.write a d).HasLayout a true d :=
  BusFrame.write_getLsbD a d

theorem BusFrame.read_hasLayout (a : BusAddr) (d : BusData) : (BusFrame.read a d).HasLayout a false d :=
  BusFrame.read_getLsbD a d

section
variable {f : BusFrame} {a : BusAddr} {rw : Bool} {d : BusData}

theorem BusFrame.HasLayout.address_cell (h : f.HasLayout a rw d) {k : Nat} (hk : k < 4) :
    f.cells[k]? = some (a.getLsbD k) := by
  rw [f.cells_getElem (by omega), h k, if_pos hk]

theorem BusFrame.HasLayout.rw_cell (h : f.HasLayout a rw d) : f.cells[4]? = some rw := by
  rw [f.cells_getElem (by decide), h 4]; rfl

theorem BusFrame.HasLayout.data_cell (h : f.HasLayout a rw d) {k : Nat} (hk : k < 20) :
    f.cells[5 + k]? = some (d.getLsbD k) := by
  rw [f.cells_getElem (by omega), h (5 + k), if_neg (by omega), if_neg (by omega), Nat.add_sub_cancel_left]

end

/-- The datum of a tuning frame is the register value, whose bits end at bit 15 (R112, R114). -/
theorem tuneData_getLsbD (f : Mhz) {k : Nat} (hk : k < 20) : (tuneData f).getLsbD k = (encodeFreq f).getLsbD k := by
  simp [tuneData, hk]

/-- Settles O20: the cells are the bits of the word, whose layout both kinds of frame share. -/
theorem frameLayout : Obligations.FrameLayout := by
  refine ⟨fun a d => ⟨BusFrame.append_toNat a 1#1 d, BusFrame.append_toNat a 0#1 d,
    (BusFrame.write_hasLayout a d).rw_cell, (BusFrame.read_hasLayout a d).rw_cell, fun f hf => ?_⟩,
    fun f => ⟨fun k hk => ?_, fun k hk => ?_⟩, by decide, by decide⟩
  · have hlayout : ∃ rw, f.HasLayout a rw d := by
      rcases List.mem_pair.mp hf with rfl | rfl
      · exact ⟨true, BusFrame.write_hasLayout a d⟩
      · exact ⟨false, BusFrame.read_hasLayout a d⟩
    obtain ⟨rw, h⟩ := hlayout
    exact ⟨f.cells_length, fun k hk => f.cells_getElem hk, fun k hk => h.address_cell hk, fun k hk => h.data_cell hk⟩
  · rw [(BusFrame.write_hasLayout _ _).data_cell (by omega), tuneData_getLsbD f (by omega)]
  · rw [show 21 + k = 5 + (16 + k) by omega, (BusFrame.write_hasLayout _ _).data_cell (by omega),
      tuneData_getLsbD f (by omega), BitVec.getLsbD_of_ge _ _ (by omega)]

/-! ### The report word of `RX_HFC` -/

/-- `RX_HFC` of an admitted frequency with the bus free: H1, then H2 and H3, then the report (R125). -/
theorem execRxHfc_free {f : Mhz} {now : Ms} {s : State} (hfree : s.busHeld = false) (hf : admitted f = true) :
    exec (.rxHfc f now) s =
      .next ((hfcSettle now (hfcChange f now s)).respond .ok (hfcReport f now s)) := by
  simp [exec, execRxHfc, withFreq, busCommand, hfree, hf]

theorem hfcChange_env (f : Mhz) (now : Ms) (s : State) : (hfcChange f now s).env = s.env := by
  obtain ⟨_, _, -, h⟩ := hfcChange_frame f now s
  rw [h]

theorem repRetune_getLsbD (k : Nat) : repRetune.getLsbD k = decide (k = 0) := by
  simp [repRetune]

theorem repSettled_getLsbD (k : Nat) : repSettled.getLsbD k = decide (k = 1) := by
  change (BitVec.twoPow 32 1).getLsbD k = _
  simp [BitVec.getLsbD_twoPow, eq_comm]

theorem repVerified_getLsbD (rb : BusData) (k : Nat) :
    (repVerified rb).getLsbD k = (decide (k = 2) || (decide (4 ≤ k) && rb.getLsbD (k - 4))) := by
  change (BitVec.twoPow 32 2 ||| rb.setWidth 32 <<< 4).getLsbD k = _
  have hhigh : 32 ≤ k → rb.getLsbD (k - 4) = false := fun h => BitVec.getLsbD_of_ge _ _ (by omega)
  simp only [BitVec.getLsbD_or, BitVec.getLsbD_twoPow, BitVec.getLsbD_shiftLeft, BitVec.getLsbD_setWidth]
  grind

theorem repMismatch_getLsbD (rb expected : BusData) (k : Nat) :
    (repMismatch rb expected).getLsbD k = (decide (k = 3) && decide (rb ≠ expected)) := by
  unfold repMismatch
  split
  · simp [*]
  · change (BitVec.twoPow 32 3).getLsbD k = _
    simp [BitVec.getLsbD_twoPow, eq_comm, *]

/-- The bits H2 and H3 add (R127): SETTLED where the settle test passes, and the read-back's where H2 verifies too. -/
theorem settleReport_getLsbD (now : Ms) (s : State) (k : Nat) :
    (settleReport now s).getLsbD k =
      (settleDue now s.rx && (decide (k = 1) || verifies s && (decide (k = 2) ||
        decide (k = 3) && decide (s.env.nextRead ≠ tuneData s.rx.curFreq) ||
        decide (4 ≤ k) && s.env.nextRead.getLsbD (k - 4)))) := by
  unfold settleReport
  split <;> rename_i hdue
  · split <;> rename_i hver
    · simp only [BitVec.getLsbD_or, repSettled_getLsbD, repVerified_getLsbD, repMismatch_getLsbD, hdue, hver]
      ac_rfl
    · simp [repSettled_getLsbD, hdue, hver]
  · simp [hdue]

theorem hfcReport_getLsbD_zero (f : Mhz) (now : Ms) (s : State) :
    (hfcReport f now s).getLsbD 0 = retuneDue f now s.rx := by
  have hsettle : (settleReport now (hfcChange f now s)).getLsbD 0 = false := by
    rw [settleReport_getLsbD]; simp
  rw [hfcReport, BitVec.getLsbD_or, hsettle]
  cases retuneDue f now s.rx <;> rfl

/-- H1 sets bit 0 alone, so the bits above it are those of H2 and H3 (R127). -/
theorem hfcReport_getLsbD_of_pos (f : Mhz) (now : Ms) (s : State) {k : Nat} (hk : 0 < k) :
    (hfcReport f now s).getLsbD k = (settleReport now (hfcChange f now s)).getLsbD k := by
  unfold hfcReport
  split <;> simp [repRetune_getLsbD, hk.ne']

/-- H2 clears `RETUNED` exactly where the settle test passes (R125). -/
theorem settleDue_eq_cleared (now : Ms) (s : State) :
    settleDue now s.rx = (s.rx.retuned && !(hfcSettle now s).rx.retuned) := by
  obtain ⟨_, _, _, -, -, h⟩ := hfcSettle_frame now s
  rw [h]
  cases hdue : settleDue now s.rx
  · simp
  · simp [(settleDue_iff.mp hdue).1]

/-- The one frame H2 and H3 can send: the read-back, where the settle test passes and H2 verifies (R125). -/
theorem hfcSettle_trace (now : Ms) (s : State) :
    (hfcSettle now s).trace =
      s.trace ++ (if settleDue now s.rx && verifies s then [.frame (.read 0x1 s.env.nextRead)] else []) := by
  unfold hfcSettle
  cases settleDue now s.rx <;> cases verifies s <;> simp [State.busRead, Config.tuneAddr]

/-- From bit 4 on the report holds the read-back alone (R127). -/
theorem settleReport_getLsbD_four_add (now : Ms) (s : State) (k : Nat) :
    (settleReport now s).getLsbD (4 + k) =
      (settleDue now s.rx && verifies s && s.env.nextRead.getLsbD k) := by
  have h1 : 4 + k ≠ 1 := by omega
  have h2 : 4 + k ≠ 2 := by omega
  have h3 : 4 + k ≠ 3 := by omega
  simp [settleReport_getLsbD, h1, h2, h3, Bool.and_assoc]

/-- READBACK, bits 23:4 (R127). -/
theorem settleReport_readback (now : Ms) (s : State) :
    (settleReport now s).extractLsb' 4 20 =
      if settleDue now s.rx && verifies s then s.env.nextRead else 0 := by
  apply BitVec.eq_of_getLsbD_eq
  intro k hk
  rw [BitVec.getLsbD_extractLsb', settleReport_getLsbD_four_add]
  cases settleDue now s.rx && verifies s <;> simp [hk]

/-- Bits 31:24 are 0: READBACK ends at bit 23 (R127). -/
theorem settleReport_reserved (now : Ms) (s : State) : (settleReport now s).extractLsb' 24 8 = 0 := by
  apply BitVec.eq_of_getLsbD_eq
  intro k hk
  have hend : s.env.nextRead.getLsbD (20 + k) = false := BitVec.getLsbD_of_ge _ _ (by omega)
  rw [BitVec.getLsbD_extractLsb', show 24 + k = 4 + (20 + k) by omega, settleReport_getLsbD_four_add, hend]
  simp

/-- A field of the report above bit 0 is that of H2 and H3's report. -/
theorem hfcReport_extractLsb' (f : Mhz) (now : Ms) (s : State) {lo : Nat} (hlo : 0 < lo) (n : Nat) :
    (hfcReport f now s).extractLsb' lo n = (settleReport now (hfcChange f now s)).extractLsb' lo n := by
  apply BitVec.eq_of_getLsbD_eq
  intro k hk
  simp only [BitVec.getLsbD_extractLsb', hfcReport_getLsbD_of_pos f now s (Nat.add_pos_left hlo k)]

theorem retuneDue_eq (f : Mhz) (now : Ms) (r : Rxd) :
    retuneDue f now r = (decide (f ≠ r.curFreq) && decide (30 ≤ (now - r.retuneTs).toNat)) := by
  rw [Bool.eq_iff_iff, retuneDue_iff]
  simp

/-- Settles O28: RETUNE is H1's test, and the bits above it are the report of H2 and H3 in the state H1 leaves. -/
theorem reportWordFields : Obligations.ReportWordFields := by
  intro f now s hfree hf
  have hretune : (hfcReport f now s).getLsbD 0 = retuneDue f now s.rx := hfcReport_getLsbD_zero f now s
  have hsettled : (hfcReport f now s).getLsbD 1 = settleDue now (hfcChange f now s).rx := by
    rw [hfcReport_getLsbD_of_pos f now s (by decide), settleReport_getLsbD]; simp
  have hverified : (hfcReport f now s).getLsbD 2 =
      (settleDue now (hfcChange f now s).rx && verifies (hfcChange f now s)) := by
    rw [hfcReport_getLsbD_of_pos f now s (by decide), settleReport_getLsbD]; simp
  refine ⟨hfcChange f now s, hfcSettle now (hfcChange f now s), hfcReport f now s, execRxHfc_free hfree hf,
    ?_, ?_, ?_, ?_, ?_, ?_, ?_, ?_⟩
  · rw [hretune, hfcChange]
  · rw [hretune, retuneDue_eq]
  · rw [hsettled, settleDue_eq_cleared]
  · rw [hverified, hsettled, verifies, hfcChange_env, Bool.and_assoc]
  · rw [hverified, hfcSettle_trace, hfcChange_env]
  · rw [hverified, hfcReport_getLsbD_of_pos f now s (by decide), settleReport_getLsbD, hfcChange_env, tuneData]
    simp [Bool.and_assoc]
  · rw [hverified, hfcReport_extractLsb' f now s (by decide), settleReport_readback, hfcChange_env]
  · rw [hfcReport_extractLsb' f now s (by decide), settleReport_reserved]

end Sys2Proof.Machine
end

section
/-! The filter step and the rounding of its estimate as the spec writes them: the model computes with products and quotients
by 1.0 = 65536, R160 and R162 with shifts by 16, and the two statements follow by rewriting one into the other. -/

namespace Sys2Proof.Machine

/-! ### The filter step in shifts (R160) -/

theorem measured_eq_shiftLeft (m : Rssi) : measured m = ((m.toNat <<< 16 : Nat) : Int) := by
  rw [Nat.shiftLeft_eq, measured, Nat.cast_mul]; rfl

/-- The seed's estimate: a measurement has 8 bits, so the register holds `m << 16` whole (R160). -/
theorem ofInt_measured (m : Rssi) : BitVec.ofInt 32 (measured m) = m.setWidth 32 <<< 16 := by
  rw [measured_eq_shiftLeft, BitVec.ofInt_natCast]
  apply BitVec.eq_of_toNat_eq
  rw [BitVec.toNat_ofNat, BitVec.toNat_shiftLeft, BitVec.toNat_setWidth_of_le (by decide)]

theorem Kf.gain_eq_shift (k : Kf) : k.gain = (k.pcov <<< 16) / k.den := by
  rw [Nat.shiftLeft_eq]; rfl

/-- The quotient of `nextEst` floors, and so does the arithmetic shift (R160). -/
theorem Kf.nextEst_eq_shift (k : Kf) (m : Rssi) :
    k.nextEst m = k.est.toInt + ((k.gain : Int) * (((m.toNat <<< 16 : Nat) : Int) - k.est.toInt)) >>> (16 : Nat) := by
  rw [Int.shiftRight_eq_div_pow, ← measured_eq_shiftLeft]; rfl

theorem Kf.nextCov_eq_shift (k : Kf) : k.nextCov = (k.pcov * (65536 - k.gain)) >>> 16 := by
  rw [Nat.shiftRight_eq_div_pow]; rfl

/-- Settles O33: the three cases of the step, each with its values in shifts; the worked example is evaluated. -/
theorem filterStepRule : Obligations.FilterStepRule := by
  refine ⟨fun m k hseed => ?_, fun m k hinit => ⟨fun hden => ?_, fun hden => ?_⟩, by decide⟩
  · rw [filterStep_seed hseed, ofInt_measured]
  · exact filterStep_fault hinit hden
  · rw [filterStep_step hinit hden, k.nextEst_eq_shift, k.nextCov_eq_shift, k.gain_eq_shift]; rfl

/-! ### The rounding (R162) -/

theorem round8_eq_shift (e : Q16) : round8 e = BitVec.ofInt 8 ((e.toInt + 0x8000) >>> (16 : Nat)) := by
  rw [Int.shiftRight_eq_div_pow]; rfl

/-- Over the estimate's range the rounded value is at most 255, so `Round8` loses no bit of it (R162). -/
theorem round8_toNat {e : Q16} (hlo : 0 ≤ e.toInt) (hhi : e.toInt ≤ 255 * 2 ^ 16) :
    ((round8 e).toNat : Int) = (e.toInt + 0x8000) / 65536 := by
  have hnonneg : 0 ≤ (e.toInt + 0x8000) / 65536 := by omega
  have hlt : (e.toInt + 0x8000) / 65536 < 256 := by omega
  rw [round8, BitVec.toNat_ofInt, Int.toNat_of_nonneg (Int.emod_nonneg _ (by decide))]
  exact Int.emod_eq_of_lt hnonneg hlt

/-- Settles O36: within the range `Round8` is the floor of `e + 0.5`, which lies at most 0.5 above and less than 0.5 below. -/
theorem round8IsNearest : Obligations.Round8IsNearest := by
  refine ⟨round8_eq_shift, fun e hlo hhi => ?_, by decide⟩
  rw [round8_toNat hlo hhi]
  omega

end Sys2Proof.Machine
end

section
/-! The peak step and the capture test (R180, R181): when a sample raises the peak, when it captures, and that no sample does
both. -/

namespace Sys2Proof.Machine

section
variable {smp : Rssi} {c : Cfg} {l : Ld}

theorem raisesPeak_iff : raisesPeak smp c l = true ↔ c.enter.toNat ≤ smp.toNat ∧ l.peak.toNat < smp.toNat := by
  simp [raisesPeak]

theorem captured_iff : captured smp c l = true ↔ smp.toNat < l.peak.toNat ∧ smp.toNat < c.exit.toNat := by
  simp [captured]

theorem Ld.peakStep_of_raisesPeak (h : raisesPeak smp c l = true) (now : Ms) :
    l.peakStep smp now c = { l with peak := smp, peakTs := now } := if_pos h

/-- A sample at or below the peak, or below `CFG_ENTER`, leaves the detector as it is (R180). -/
theorem Ld.peakStep_of_not_raisesPeak (h : ¬ raisesPeak smp c l = true) (now : Ms) : l.peakStep smp now c = l := if_neg h

/-- To raise the peak a sample lies strictly above it, whatever `CFG_ENTER` is (R180). -/
theorem not_raisesPeak_of_le (h : smp.toNat ≤ l.peak.toNat) : ¬ raisesPeak smp c l = true :=
  fun hr => absurd (raisesPeak_iff.mp hr).2 h.not_gt

/-- Without a peak nothing is captured: no sample lies below 0 (R181). -/
theorem captured_of_peak_eq_zero (h : l.peak = 0) : captured smp c l = false := by
  rw [Bool.eq_false_iff]
  intro hcap
  have hlt : smp.toNat < l.peak.toNat := (captured_iff.mp hcap).1
  rw [h] at hlt
  exact absurd hlt (Nat.not_lt_zero _)

end

/-- Settles O43: the peak step is the case split on `raisesPeak`, which a sample equal to the peak and a sample of 0 fail;
the order does not matter because a sample above the peak captures neither before nor after it becomes the peak. -/
theorem peakCaptureRule : Obligations.PeakCaptureRule := by
  intro smp now c l
  refine ⟨fun henter hpeak => Ld.peakStep_of_raisesPeak (raisesPeak_iff.mpr ⟨henter, hpeak⟩) now,
    fun h => Ld.peakStep_of_not_raisesPeak (mt raisesPeak_iff.mp h) now, fun heq => ?_, ?_,
    captured_iff, captured_of_peak_eq_zero, captured_peakStep smp now c l⟩
  · have hle : smp.toNat ≤ l.peak.toNat := by rw [heq]
    rw [Ld.peakStep_of_not_raisesPeak (not_raisesPeak_of_le hle)]
  · exact Ld.peakStep_of_not_raisesPeak (not_raisesPeak_of_le (Nat.zero_le _)) now

end Sys2Proof.Machine
end

section
/-! The reset state (R261): every register by its own value, and the invariants of R48 part by part. With both ports idle the
bus invariants come down to the receiver's on the registers as they stand; with `SEQ` idle the pin invariant is idle levels. -/

namespace Sys2Proof.Machine

section
variable {s : State}

/-- Between commands the registers are already what the bus leaves them (R48, R73). -/
theorem State.rxAtEnd_of_idle (h0 : s.p0.busy = .idle) (h1 : s.p1.busy = .idle) : s.rxAtEnd = s.rx := by
  simp [State.rxAtEnd, State.flight, Busy.flying, h0, h1]

theorem busOwnerOk_of_idle (h0 : s.p0.busy = .idle) : busOwnerOk s = true := by
  simp [busOwnerOk, Busy.flying, h0]

/-- With no command in flight or waiting, only the receiver's invariants are left of the bus invariants. -/
theorem busOk_of_idle (h0 : s.p0.busy = .idle) (h1 : s.p1.busy = .idle) : busOk s = receiverOk s.rx := by
  simp [busOk, busOwnerOk_of_idle h0, waitingOk, State.rxAtEnd_of_idle h0 h1, h0, h1]

theorem pinsOk_of_seq_none (hseq : s.seq = none) : pinsOk s = (s.pins == Pins.idleLevels) := by
  simp [pinsOk, hseq]

end

theorem ramOk_reset : ramOk State.reset.ld = true := by
  rw [ramOk, Bool.and_eq_true]
  exact ⟨Memory.wf_clear _, Memory.wf_clear _⟩

theorem filterOk_reset : filterOk State.reset.kf = true := by decide

theorem detectorOk_reset : detectorOk State.reset.ld = true := by decide

/-- `CUR_FREQ` 0 is not the power-down sentinel, as `PWR_DOWN` 0 says; and no retune is pending (R48 items 3 and 4). -/
theorem receiverOk_reset : receiverOk State.reset.rx = true := by decide

theorem busOk_reset : busOk State.reset = true :=
  (busOk_of_idle rfl rfl).trans receiverOk_reset

theorem pinsOk_reset : pinsOk State.reset = true :=
  (pinsOk_of_seq_none rfl).trans (beq_self_eq_true _)

theorem safe_reset : safe State.reset = true := by
  simp only [safe, ramOk_reset, filterOk_reset, detectorOk_reset, busOk_reset, busOwnerOk_of_idle (s := State.reset) rfl,
    pinsOk_reset, Bool.and_self]

/-- Settles O12: each register reads off the reset state, a cleared RAM reads 0 everywhere, and the invariants are
`safe_reset`. -/
theorem resetStateIsAsSpecified : Obligations.ResetStateIsAsSpecified := by
  refine ⟨?rx, ?pins, ?seq, ?kf, ?ldState, ?ldPeak, ?cfg,
    Memory.read_clear, Memory.read_clear, safe_reset⟩
  all_goals decide

end Sys2Proof.Machine
end

section
/-! The encoder against the decoder (R80 to R83, R92): each operand form reads back what `pack` lays out, and accepts no word
but such a one, so the two are inverse row by row; the pseudo-instructions and the output codes. -/

namespace Sys2Proof

open Machine

theorem decode_of_lookup {w : Cmd} {form : Cmd → Option Instr} {i : Instr}
    (hlookup : opcodeMap.lookup (opcField w) = some form) (hform : form w = some i) : decode w = .ok i := by
  rw [decode, hlookup]
  simp only [hform]

/-! ### Each operand form on a packed word -/

@[simp] theorem noOperand_pack (i : Instr) (o : BitVec 8) : noOperand i (pack o 0 0) = some i := by
  simp [noOperand]

@[simp] theorem freqAndTime_pack (mk : Mhz → Ms → Instr) (o : BitVec 8) (f : Mhz) (t : Ms) :
    freqAndTime mk (pack o f t) = some (mk f t) := by
  simp [freqAndTime]

@[simp] theorem freqOnly_pack (mk : Mhz → Instr) (o : BitVec 8) (f : Mhz) :
    freqOnly mk (pack o f 0) = some (mk f) := by
  simp [freqOnly]

theorem lowBits_pack {n : Nat} (mk : BitVec n → Instr) (o : BitVec 8) (v : BitVec n) (hn : n ≤ 32) :
    lowBits n mk (pack o 0 (v.setWidth 32)) = some (mk v) := by
  simp only [lowBits, rsvField_pack, f16Field_pack, v32Field_pack, high_of_setWidth, low_of_setWidth v hn, and_self,
    if_true]

/-- `lowBits_pack` where the operand fills `V32`. -/
theorem lowBits_pack_whole (mk : BitVec 32 → Instr) (o : BitVec 8) (v : BitVec 32) :
    lowBits 32 mk (pack o 0 v) = some (mk v) := by
  simpa using lowBits_pack mk o v le_rfl

/-- Settles O1: the opcode of the word leads to the command's own row, whose form reads the operands back. -/
theorem encodeThenDecode : Obligations.EncodeThenDecode := by
  intro i
  have row : ∀ {o f v form}, opcodeMap.lookup o = some form → form (pack o f v) = some i → decode (pack o f v) = .ok i :=
    fun hlookup hform => decode_of_lookup (by rw [opcField_pack]; exact hlookup) hform
  cases i with
  | rxInit => exact row rfl (noOperand_pack _ _)
  | rxSetfreq f t => exact row rfl (freqAndTime_pack _ _ f t)
  | rxHfc f t => exact row rfl (freqAndTime_pack _ _ f t)
  | rxReadrssi => exact row rfl (noOperand_pack _ _)
  | kfFilter m => exact row rfl (lowBits_pack _ _ m (by decide))
  | kfSetmnoise v => exact row rfl (lowBits_pack _ _ v (by decide))
  | kfSetpnoise v => exact row rfl (lowBits_pack _ _ v (by decide))
  | ldStart => exact row rfl (noOperand_pack _ _)
  | ldStop => exact row rfl (noOperand_pack _ _)
  | ldUpdate t => exact row rfl (lowBits_pack_whole _ _ t)
  | ldGetrssi => exact row rfl (noOperand_pack _ _)
  | ldGetlap => exact row rfl (noOperand_pack _ _)
  | ldIslapavail => exact row rfl (noOperand_pack _ _)
  | cfgMinlap t => exact row rfl (lowBits_pack_whole _ _ t)
  | cfgEnter l => exact row rfl (lowBits_pack _ _ l (by decide))
  | cfgExit l => exact row rfl (lowBits_pack _ _ l (by decide))
  | cfgFreq f => exact row rfl (freqOnly_pack _ _ f)

/-! ### The words an operand form accepts -/

/-- Every word with the opcode `o` that the form accepts is the word of the command it reads. -/
def EncodesBack (o : BitVec 8) (form : Cmd → Option Instr) : Prop :=
  ∀ w i, opcField w = o → form w = some i → encode i = w

theorem noOperand_encodesBack {o : BitVec 8} {i : Instr} (henc : encode i = pack o 0 0) :
    EncodesBack o (noOperand i) := by
  rintro w _ rfl hform
  obtain ⟨⟨hrsv, hf16, hv32⟩, h⟩ := Option.ite_none_right_eq_some.mp hform
  cases h
  rw [henc, ← hf16, ← hv32, pack_fields w hrsv]

theorem freqAndTime_encodesBack {o : BitVec 8} {mk : Mhz → Ms → Instr} (henc : ∀ f t, encode (mk f t) = pack o f t) :
    EncodesBack o (freqAndTime mk) := by
  rintro w _ rfl hform
  obtain ⟨hrsv, h⟩ := Option.ite_none_right_eq_some.mp hform
  cases h
  rw [henc, pack_fields w hrsv]

theorem freqOnly_encodesBack {o : BitVec 8} {mk : Mhz → Instr} (henc : ∀ f, encode (mk f) = pack o f 0) :
    EncodesBack o (freqOnly mk) := by
  rintro w _ rfl hform
  obtain ⟨⟨hrsv, hv32⟩, h⟩ := Option.ite_none_right_eq_some.mp hform
  cases h
  rw [henc, ← hv32, pack_fields w hrsv]

theorem lowBits_encodesBack {o : BitVec 8} {n : Nat} {mk : BitVec n → Instr}
    (henc : ∀ v, encode (mk v) = pack o 0 (v.setWidth 32)) : EncodesBack o (lowBits n mk) := by
  rintro w _ rfl hform
  obtain ⟨⟨hrsv, hf16, hhigh⟩, h⟩ := Option.ite_none_right_eq_some.mp hform
  cases h
  rw [henc, setWidth_of_low _ hhigh, ← hf16, pack_fields w hrsv]

/-- Row by row, the map's operand forms accept only words the encoder writes (R82, R83). -/
theorem opcodeMap_encodesBack : ∀ row ∈ opcodeMap, EncodesBack row.1 row.2 := by
  have whole : ∀ {o : BitVec 8} {mk : BitVec 32 → Instr}, (∀ v, encode (mk v) = pack o 0 v) →
      EncodesBack o (lowBits 32 mk) :=
    fun henc => lowBits_encodesBack fun v => by rw [henc, BitVec.setWidth_eq]
  simp only [opcodeMap, List.forall_mem_cons]
  exact
    ⟨noOperand_encodesBack rfl, freqAndTime_encodesBack fun _ _ => rfl, freqAndTime_encodesBack fun _ _ => rfl,
     noOperand_encodesBack rfl, lowBits_encodesBack fun _ => rfl, lowBits_encodesBack fun _ => rfl,
     lowBits_encodesBack fun _ => rfl, noOperand_encodesBack rfl, noOperand_encodesBack rfl, whole fun _ => rfl,
     noOperand_encodesBack rfl, noOperand_encodesBack rfl, noOperand_encodesBack rfl, whole fun _ => rfl,
     lowBits_encodesBack fun _ => rfl, lowBits_encodesBack fun _ => rfl, freqOnly_encodesBack fun _ => rfl,
     List.forall_mem_nil _⟩

/-- Settles O2: the row the decoder looked up accepts only words the encoder writes. -/
theorem decodeThenEncode : Obligations.DecodeThenEncode := by
  intro w i hdecode
  unfold decode at hdecode
  split at hdecode
  case h_1 => cases hdecode
  case h_2 form hlookup =>
    split at hdecode
    case h_1 => cases hdecode
    case h_2 hform =>
      cases hdecode
      obtain ⟨before, later, hmap, -⟩ := List.lookup_eq_some_iff.mp hlookup
      have hmem : (opcField w, form) ∈ opcodeMap := by rw [hmap]; simp
      exact opcodeMap_encodesBack _ hmem w _ rfl hform

/-- An operand too wide for its row is a field error (R82, R86). -/
theorem decode_pack_of_wide {o : BitVec 8} {n : Nat} {mk : BitVec n → Instr} {v : BitVec 32}
    (hlookup : opcodeMap.lookup o = some (lowBits n mk)) (hn : n ≤ 32) (hv : 2 ^ n ≤ v.toNat) :
    decode (pack o 0 v) = .error .illegalField := by
  rw [decode_illegalField_iff (form := lowBits n mk) (by rw [opcField_pack]; exact hlookup), lowBits, if_neg,
    Option.isSome_none]
  rw [v32Field_pack]
  rintro ⟨-, -, hhigh⟩
  have hlow : (v.extractLsb' 0 n).toNat = v.toNat := by
    have := congrArg BitVec.toNat (setWidth_of_low v hhigh)
    rwa [BitVec.toNat_setWidth_of_le hn] at this
  exact absurd (v.extractLsb' 0 n).isLt (by omega)

/-! ### Pseudo-instructions and output codes -/

/-- Settles O6: `RX_POWERDOWN` is `RX_SETFREQ` of the sentinel 1111 = 0x457, whose word has the time in its low half; the
others expand as they are defined. -/
theorem pseudoInstructionsExpand : Obligations.PseudoInstructionsExpand := by
  refine ⟨fun t => ?_, fun _ _ => rfl, fun _ _ => rfl⟩
  have hword : pack 0x11 1111 t = 0x1100045700000000 ||| t.setWidth 64 := by
    apply BitVec.eq_of_toNat_eq
    change ((0x11#8 ++ 0#8 ++ 1111#16) ++ t).toNat = _
    rw [BitVec.toNat_append, BitVec.toNat_or, BitVec.toNat_setWidth_of_le (by decide)]
    rfl
  exact congrArg (· :: []) hword

/-- Settles O52: `RSP34` is an append, so its two fields are the parts; the codes are evaluated. -/
theorem outputCodes : Obligations.OutputCodes := by
  refine ⟨fun r => ⟨?_, ?_⟩, by decide⟩
  · exact BitVec.extractLsb'_append_eq_right
  · exact BitVec.extractLsb'_append_eq_left

end Sys2Proof
end

section
/-! The bounds of the filter (R163) and the filter without measurement noise (R164): the gain, the estimate between its old
value and the measurement, and the covariance; every narrowing at the end of a step is exact within them. -/

namespace Sys2Proof.Machine

/-! ### The gain -/

theorem Kf.gain_eq_one_iff (k : Kf) : k.gain = 65536 ↔ k.mnoise = 0 ∧ 0 < k.pcov := by
  have hzero : k.mnoise = 0 ↔ k.mnoise.toNat = 0 := by rw [← BitVec.toNat_inj]; rfl
  have hgain : k.gain = k.pcov * 65536 / (k.pcov + k.mnoise.toNat) := rfl
  rw [hzero, hgain]
  constructor
  · intro h
    have hden : 0 < k.pcov + k.mnoise.toNat := Nat.pos_of_ne_zero fun h0 => by simp [h0] at h
    have hle : 65536 * (k.pcov + k.mnoise.toNat) ≤ k.pcov * 65536 := (Nat.le_div_iff_mul_le hden).mp h.ge
    omega
  · rintro ⟨hnoise, hpos⟩
    rw [hnoise, Nat.add_zero, Nat.mul_div_cancel_left _ hpos]

/-! ### The estimate -/

theorem measured_nonneg (m : Rssi) : 0 ≤ measured m := by
  simp only [measured, Config.one]; omega

theorem measured_le (m : Rssi) : measured m ≤ 255 * 65536 := by
  have := m.isLt
  simp only [measured, Config.one]; omega

/-- An estimate of the range 0..255 is narrowed to the register without loss. -/
theorem toInt_ofInt_of_mem_range {x : Int} (hlo : 0 ≤ x) (hhi : x ≤ 255 * 65536) : (BitVec.ofInt 32 x).toInt = x :=
  BitVec.toInt_ofInt_eq_self (by decide) (by omega) (by omega)

/-- The correction lies between 0 and the whole difference, so the estimate stops between its old value and the measurement
(R163 item 2). -/
theorem Kf.nextEst_between (k : Kf) (m : Rssi) :
    min k.est.toInt (measured m) ≤ k.nextEst m ∧ k.nextEst m ≤ max k.est.toInt (measured m) := by
  have h := scaled_between k.gain k.gain_le (measured m - k.est.toInt)
  have hnext : k.nextEst m = k.est.toInt + (k.gain : Int) * (measured m - k.est.toInt) / 65536 := rfl
  omega

/-! ### The covariance -/

/-- The truncated gain is short of the exact one by less than 1, so the new covariance exceeds the measurement noise by less
than a unit in each 2^16 of the predicted covariance (R163 item 3). -/
theorem Kf.nextCov_le (k : Kf) (hden : k.den ≠ 0) : k.nextCov ≤ k.mnoise.toNat + k.pcov / 65536 := by
  have hdef : k.den = k.pcov + k.mnoise.toNat := rfl
  have hpos : 0 < k.den := Nat.pos_of_ne_zero hden
  have htrunc : k.pcov * 65536 < k.den * (k.gain + 1) := Nat.lt_mul_div_succ _ hpos
  have hgain := k.gain_le
  obtain ⟨rest, hrest⟩ : ∃ rest, k.gain + rest = 65536 := ⟨65536 - k.gain, by omega⟩
  have hscaled : k.pcov * rest ≤ k.mnoise.toNat * 65536 + k.pcov := by
    have hrestLe : rest * k.den ≤ 65536 * k.mnoise.toNat + k.den := by nlinarith
    refine Nat.le_of_mul_le_mul_right ?_ hpos
    calc k.pcov * rest * k.den = k.pcov * (rest * k.den) := by ring
      _ ≤ k.pcov * (65536 * k.mnoise.toNat + k.den) := Nat.mul_le_mul_left _ hrestLe
      _ ≤ (k.mnoise.toNat * 65536 + k.pcov) * k.den := by nlinarith
  have hnext : k.nextCov = k.pcov * rest / 65536 := by
    rw [Kf.nextCov, Config.one, show 65536 - k.gain = rest by omega]
  omega

/-! ### The two statements -/

section
variable {k : Kf} (hok : filterOk k = true)
include hok

theorem Kf.pcov_lt_of_filterOk : k.pcov < 2 ^ 28 + 2 ^ 29 := by
  obtain ⟨-, hpnoise, hcov, -⟩ := (filterOk_iff k).mp hok
  unfold Kf.pcov; omega

theorem Kf.nextCov_lt_of_filterOk (hden : k.den ≠ 0) : k.nextCov < 2 ^ 29 := by
  have hle := k.nextCov_le hden
  have hpcov := Kf.pcov_lt_of_filterOk hok
  obtain ⟨hmnoise, -⟩ := (filterOk_iff k).mp hok
  omega

/-- An initialised sound filter's next estimate is one of the range 0..255 (R163 item 2). -/
theorem Kf.nextEst_mem_range (hinit : k.init = true) (m : Rssi) : 0 ≤ k.nextEst m ∧ k.nextEst m ≤ 255 * 65536 := by
  obtain ⟨-, -, -, hest⟩ := (filterOk_iff k).mp hok
  have hrange := hest.resolve_left (by simp [hinit])
  have hbetween := k.nextEst_between m
  have hlo := measured_nonneg m
  have hhi := measured_le m
  omega

/-- What a non-seeding step leaves in its two registers: the exact values, nothing narrowed away (log 13). -/
theorem filterStep_step_exact {k' : Kf} {m : Rssi} (hinit : k.init = true) (h : filterStep m k = some k') :
    k.den ≠ 0 ∧ k'.est.toInt = k.nextEst m ∧ k'.cov.toNat = k.nextCov := by
  rcases filterStep_cases m k with ⟨hseed, _⟩ | ⟨_, _, e⟩ | ⟨_, hden, e⟩
  · simp [hinit] at hseed
  · rw [e] at h; cases h
  · rw [e] at h; cases h
    obtain ⟨hlo, hhi⟩ := Kf.nextEst_mem_range hok hinit m
    have hcov := Kf.nextCov_lt_of_filterOk hok hden
    exact ⟨hden, toInt_ofInt_of_mem_range hlo hhi, (BitVec.toNat_ofNat ..).trans (Nat.mod_eq_of_lt (by omega))⟩

/-- A step keeps the filter sound (R163). -/
theorem filterOk_filterStep {k' : Kf} {m : Rssi} (h : filterStep m k = some k') : filterOk k' = true := by
  obtain ⟨hinit', hmn, hpn⟩ := filterStep_frame h
  obtain ⟨hmnoise, hpnoise, -⟩ := (filterOk_iff k).mp hok
  rw [filterOk_iff, hmn, hpn]
  refine ⟨hmnoise, hpnoise, ?_⟩
  cases hinit : k.init with
  | false =>
    rw [filterStep_seed hinit] at h
    cases h
    have hest := toInt_ofInt_of_mem_range (measured_nonneg m) (measured_le m)
    exact ⟨by change k.mnoise.toNat < _; omega, .inr (by rw [hest]; exact ⟨measured_nonneg m, measured_le m⟩)⟩
  | true =>
    obtain ⟨hden, hest, hcov⟩ := filterStep_step_exact hok hinit h
    rw [hest, hcov]
    exact ⟨Kf.nextCov_lt_of_filterOk hok hden, .inr (Kf.nextEst_mem_range hok hinit m)⟩

end

/-- Settles O34: the step keeps the filter sound, and where it is not the seed its registers hold the exact values. -/
theorem filterBounds : Obligations.FilterBounds := by
  intro m k k' hok h
  have hok' := filterOk_filterStep hok h
  obtain ⟨hinit', -⟩ := filterStep_frame h
  obtain ⟨-, -, -, hrange⟩ := (filterOk_iff k').mp hok'
  obtain ⟨hlo, hhi⟩ := hrange.resolve_left (by simp [hinit'])
  have hpcov := Kf.pcov_lt_of_filterOk hok
  obtain ⟨hmnoise, -⟩ := (filterOk_iff k).mp hok
  have hden : k.den = k.pcov + k.mnoise.toNat := rfl
  refine ⟨hok', hinit', hlo, hhi, k.gain_le, k.gain_eq_one_iff, by omega, by omega, fun hinit => ?_⟩
  obtain ⟨hden0, hest, hcov⟩ := filterStep_step_exact hok hinit h
  have hcovLe := k.nextCov_le hden0
  rw [hest]
  exact ⟨rfl, hcov, by omega, k.nextEst_between m⟩

/-- Settles O35: the seed gives the measurement with covariance `KF_MNOISE` = 0; a later step has gain 1.0, so the correction
is the whole difference and nothing of the covariance is left. -/
theorem identityFilter : Obligations.IdentityFilter := by
  intro m k hmnoise hpnoise
  refine ⟨?_, ?_⟩
  · rw [← ofInt_measured]
    cases hinit : k.init with
    | false => rw [filterStep_seed hinit, hmnoise]
    | true =>
      have hden : k.den ≠ 0 := fun h0 => hpnoise (k.den_eq_zero_iff.mp h0).2.1
      have hpcov : 0 < k.pcov := by
        have : k.pnoise.toNat ≠ 0 := fun h0 => hpnoise (BitVec.eq_of_toNat_eq h0)
        unfold Kf.pcov; omega
      have hgain : k.gain = 65536 := k.gain_eq_one_iff.mpr ⟨hmnoise, hpcov⟩
      have hest : k.nextEst m = measured m := by
        have : k.nextEst m = k.est.toInt + (k.gain : Int) * (measured m - k.est.toInt) / 65536 := rfl
        rw [hgain] at this; omega
      have hcov : k.nextCov = 0 := by simp [Kf.nextCov, hgain, Config.one]
      rw [filterStep_step hinit hden, hest, hcov, ← hinit]
      rfl
  · have hest := toInt_ofInt_of_mem_range (measured_nonneg m) (measured_le m)
    have hfloor : (measured m + 0x8000) / 65536 = (m.toNat : Int) := by
      simp only [measured, Config.one]; omega
    rw [← ofInt_measured, round8, hest, hfloor, BitVec.ofInt_natCast, BitVec.ofNat_toNat, BitVec.setWidth_eq]

end Sys2Proof.Machine
end

section
/-! The commands that do not drive the bus, each as one update of the state: the configuration bank, the noise registers, the
filter step, RSSI sampling and the detector; and the statements about their results. -/

namespace Sys2Proof.Machine

open Claims

/-- Settles O17: every arm of `exec` answers a next state. -/
theorem everyCommandAnswersNext : Obligations.EveryCommandAnswersNext := by
  intro i s
  cases i <;> exact ⟨_, rfl⟩

/-! ### The configuration bank and the noise registers -/

/-- Settles O47: three of the writes are unconditional, and `CFG_FREQ` tests its operand alone (R88). -/
theorem configWritesResult : Obligations.ConfigWritesResult := by
  intro s ok
  refine ⟨fun _ => rfl, fun _ => rfl, fun _ => rfl, fun f hf => ?_, fun f hf => ?_⟩
  · have hadmitted : admitted f = true := (admitted_iff f).mpr hf
    simp only [exec, execCfgFreq, withFreq, hadmitted, if_true]
    rfl
  · have hrefused : ¬ admitted f = true := mt (admitted_iff f).mp hf
    simp only [exec, execCfgFreq, withFreq, hrefused]
    rfl

/-- Settles O37: the two writes are unconditional; a wider value does not decode, since both rows leave 28 bits free. -/
theorem noiseWritesResult : Obligations.NoiseWritesResult :=
  ⟨fun _ _ => ⟨rfl, rfl⟩, fun _ hv =>
    ⟨decode_pack_of_wide (n := 28) rfl (by decide) hv, decode_pack_of_wide (n := 28) rfl (by decide) hv⟩⟩

/-! ### The filter step as a command -/

theorem execKfFilter_some {m : Rssi} {s : State} {k : Kf} (hk : filterStep m s.kf = some k) :
    exec (.kfFilter m) s = .next { s with kf := k, trace := s.trace ++ [.rsp s.cur ⟨.ok, k.est⟩] } := by
  simp only [exec, execKfFilter, hk]
  rfl

theorem execKfFilter_none {m : Rssi} {s : State} (hk : filterStep m s.kf = none) :
    exec (.kfFilter m) s = .next s.enterFaulted := by
  simp only [exec, execKfFilter, hk]

/-- Settles O32. -/
theorem kfFilterResult : Obligations.KfFilterResult := by
  intro m s hdef
  obtain ⟨k, hk⟩ := exists_filterStep_of_stepDefined m hdef
  exact ⟨k, hk, execKfFilter_some hk⟩

/-- Settles O15: the step faults, and `LD_UPDATE` has taken its draw before it. -/
theorem zeroDenominatorEntersFaulted : Obligations.ZeroDenominatorEntersFaulted := by
  intro s hinit hcov hpnoise hmnoise t
  have hfault : ∀ m, filterStep m s.kf = none := fun m =>
    filterStep_fault hinit (s.kf.den_eq_zero_iff.mpr ⟨hcov, hpnoise, hmnoise⟩)
  refine ⟨fun m => execKfFilter_none (hfault m), fun now hret => ?_, fun now hret => ?_⟩
  · rw [execLdUpdate_none (hfault _), afterReadRssi_eq, hret]; rfl
  · rw [execLdUpdate_none (hfault _), afterReadRssi_eq, hret]; rfl

/-! ### RSSI sampling -/

theorem execRxReadrssi_eq (s : State) :
    exec .rxReadrssi s = .next { s with
      env := if s.rx.retuned then s.env else { s.env with adcIn := s.env.adcIn.tail, adcDraws := s.env.adcDraws + 1 }
      trace := s.trace ++ [.rsp s.cur ⟨.ok, (readRssi s).setWidth 32⟩] } := by
  simp only [exec, execRxReadrssi, afterReadRssi_eq]
  rfl

/-- A clamped sample shifted by 3 fits 8 bits, so the scaling loses none (R134). -/
theorem scaleAdc_toNat (a : Adc) : (scaleAdc a).toNat = min a.toNat 2047 / 8 :=
  (BitVec.toNat_ofNat ..).trans (Nat.mod_eq_of_lt (by simp only [Config.rssiClamp, Config.rssiShift]; omega))

/-- Settles O30: `RETUNED` decides between 0 without a draw and the scaled sample with one. -/
theorem readRssiResult : Obligations.ReadRssiResult := by
  refine ⟨fun s hret => ?_, fun s hret => ?_⟩
  · have hzero : readRssi s = 0 := by simp [readRssi, hret]
    refine ⟨hzero, ?_⟩
    rw [execRxReadrssi_eq, hzero, hret]
    rfl
  · have hscaled : (readRssi s).toNat = min s.env.nextAdc.toNat 2047 / 8 := by
      rw [readRssi, hret]; exact scaleAdc_toNat _
    refine ⟨hscaled, ?_⟩
    rw [execRxReadrssi_eq, ← BitVec.ofNat_toNat, hscaled, hret]
    rfl

/-! ### The detector's lifecycle commands and reads -/

theorem execLdStart_stopped {s : State} (h : s.ld.state = .stopped) :
    exec .ldStart s = .next { s with
      ld := { s.ld with state := .waiting, lapCur := 0, lapAvail := false, peak := 0, peakTs := 0 }
      trace := s.trace ++ [.notify .start, .rsp s.cur ⟨.ok, 1⟩] } := by
  simp only [exec, execLdStart, h, State.respond_eq, State.notify_eq, State.emit, List.append_assoc]
  rfl

theorem execLdStart_started {s : State} (h : s.ld.state ≠ .stopped) :
    exec .ldStart s = .next { s with trace := s.trace ++ [.rsp s.cur ⟨.ok, 0⟩] } := by
  simp only [exec, execLdStart]
  cases hs : s.ld.state with
  | stopped => exact absurd hs h
  | waiting => rfl
  | running => rfl

/-- Settles O38. -/
theorem ldStartResult : Obligations.LdStartResult :=
  ⟨fun _ => execLdStart_stopped, fun _ => execLdStart_started⟩

/-- The detector after `LD_STOP`: everything but `LAP_START` at its reset value (R201). -/
def Ld.stopped (l : Ld) : Ld := { State.reset.ld with lapStart := l.lapStart }

theorem execLdStop_eq (s : State) :
    exec .ldStop s = .next { s with
      ld := s.ld.stopped, trace := s.trace ++ [.notify .stop, .rsp s.cur ⟨.ok, 0⟩] } := by
  simp only [exec, execLdStop, State.respond_eq, State.notify_eq, State.emit, List.append_assoc]
  rfl

/-- Settles O39: stopping a stopped detector leaves it as it is. -/
theorem ldStopResult : Obligations.LdStopResult := fun s =>
  ⟨_, execLdStop_eq s, rfl, Memory.read_clear, Memory.read_clear, rfl, rfl, rfl, rfl, rfl, rfl, rfl, execLdStop_eq _⟩

theorem execLdGetlap_eq (s : State) :
    exec .ldGetlap s = .next { s with
      ld := { s.ld with lapAvail := false }, trace := s.trace ++ [.rsp s.cur ⟨.ok, s.ld.newestLap⟩] } := rfl

/-- Settles O45: clearing the mailbox moves neither cursor nor ring, so the second read finds the same lap. -/
theorem detectorReads : Obligations.DetectorReads := by
  intro s
  refine ⟨?_, rfl, ?_⟩
  · rw [← Ld.newestSample_eq_read]; rfl
  · intro v t
    have hlap : s.ld.newestLap = v := s.ld.newestLap_eq_read
    have hfirst : exec .ldGetlap s = .next t := by rw [execLdGetlap_eq, hlap]
    have hsecond : exec .ldGetlap t = .next { t with trace := t.trace ++ [.rsp s.cur ⟨.ok, v⟩] } := by
      rw [execLdGetlap_eq, show t.ld.newestLap = v from hlap]
    exact ⟨hfirst, hsecond, rfl⟩

/-! ### The tick -/

section
variable (smp : Rssi) (now : Ms) (c : Cfg) {l : Ld}

theorem Ld.transition_stopped (h : l.state = .stopped) : l.transition smp now c = (l, false) := by
  simp only [Ld.transition, h]

theorem Ld.transition_waiting (h : l.state = .waiting) :
    l.transition smp now c =
      if captured smp c (l.peakStep smp now c) then
        (Ld.startLap { l.peakStep smp now c with state := .running }, true)
      else (l.peakStep smp now c, false) := by
  simp only [Ld.transition, h]

theorem Ld.transition_running (h : l.state = .running) :
    l.transition smp now c =
      if gateOpen now c l then
        if captured smp c (l.peakStep smp now c) then ((l.peakStep smp now c).finishLap.startLap, true)
        else (l.peakStep smp now c, false)
      else (l, false) := by
  simp only [Ld.transition, h]

/-- A tick that captures nothing is the peak step or nothing (R186). -/
theorem Ld.transition_not_captured (h : captured smp c l = false) :
    (l.transition smp now c).1 = l ∨ (l.transition smp now c).1 = l.peakStep smp now c := by
  have h := (captured_peakStep smp now c l).trans h
  rcases Ld.transition_cases smp now c l with
    ⟨_, e⟩ | ⟨_, hcap, _⟩ | ⟨_, _, e⟩ | ⟨_, _, hcap, _⟩ | ⟨_, _, _, e⟩ | ⟨_, _, e⟩
  · exact .inl (by rw [e])
  · exact absurd (h.symm.trans hcap) (by decide)
  · exact .inr (by rw [e])
  · exact absurd (h.symm.trans hcap) (by decide)
  · exact .inr (by rw [e])
  · exact .inl (by rw [e])

end

/-- Settles O40: the sample path is `storeSample`, and each row of the lifecycle table is one branch of `transition`, whose
peak step and tests on the stored sample are those the statement writes out. -/
theorem ldUpdateTick : Obligations.LdUpdateTick := by
  intro now s hdef
  obtain ⟨k, hk⟩ := exists_filterStep_of_stepDefined (readRssi s) hdef
  refine ⟨k, hk, ?_⟩
  intro smp l raised peak apex capture gate tick
  have htick : exec (.ldUpdate now) s =
      tick (l.transition smp now s.cfg).1 (if (l.transition smp now s.cfg).2 then [.notify .lapStart] else []) :=
    execLdUpdate_some hk
  have hpeakStep : l.peakStep smp now s.cfg = { l with peak := peak, peakTs := apex } := Ld.peakStep_eq smp now s.cfg l
  have hcapture : captured smp s.cfg (l.peakStep smp now s.cfg) = capture := by rw [hpeakStep]; rfl
  have hgate : gateOpen now s.cfg l = gate := rfl
  rw [htick]
  refine ⟨fun hs => ?_, fun hs hc => ?_, fun hs hc => ?_, fun hs hg hc => ?_, fun hs hg hc => ?_, fun hs hg => ?_⟩
  · rw [Ld.transition_stopped _ _ _ (l := l) hs]; rfl
  · rw [Ld.transition_waiting _ _ _ (l := l) hs, hcapture, hc, hpeakStep]; rfl
  · rw [Ld.transition_waiting _ _ _ (l := l) hs, hcapture, hc, hpeakStep]; rfl
  · rw [Ld.transition_running _ _ _ (l := l) hs, hgate, hg, hcapture, hc, hpeakStep]; rfl
  · rw [Ld.transition_running _ _ _ (l := l) hs, hgate, hg, hcapture, hc, hpeakStep]; rfl
  · rw [Ld.transition_running _ _ _ (l := l) hs, hgate, hg]; rfl

/-- Settles O44: a sample that captures does not raise the peak, so the lap finished is the one between the two tracked
apexes, and starting the next lap leaves the lap ring as `finishLap` left it. -/
theorem lapDurationExact : Obligations.LapDurationExact := by
  intro now s k hwf hk hrunning hgate hpeak hexit
  have hcaptured : captured (round8 k.est) s.cfg s.ld = true := captured_iff.mpr ⟨hpeak, hexit⟩
  have hpeakStep : (s.ld.storeSample (round8 k.est)).peakStep (round8 k.est) now s.cfg = s.ld.storeSample (round8 k.est) :=
    Ld.peakStep_of_not_raisesPeak (not_raisesPeak_of_le (l := s.ld.storeSample (round8 k.est)) (Nat.le_of_lt hpeak)) now
  have htransition : (s.ld.storeSample (round8 k.est)).transition (round8 k.est) now s.cfg =
      ((s.ld.storeSample (round8 k.est)).finishLap.startLap, true) := by
    have hopen : gateOpen now s.cfg (s.ld.storeSample (round8 k.est)) = true := decide_eq_true hgate
    have hcap : captured (round8 k.est) s.cfg (s.ld.storeSample (round8 k.est)) = true := hcaptured
    rw [Ld.transition_running _ _ _ (l := s.ld.storeSample (round8 k.est)) hrunning, hpeakStep, hopen, hcap]
    rfl
  have hlap : (s.ld.storeSample (round8 k.est)).finishLap.startLap.newestLap = s.ld.peakTs - s.ld.lapStart :=
    Ld.newestLap_finishLap (l := s.ld.storeSample (round8 k.est)) hwf
  have htick := execLdUpdate_some (now := now) hk
  rw [htransition] at htick
  refine ⟨_, _, htick, rfl, rfl, execLdGetlap_eq _, ?_⟩
  dsimp only
  rw [hlap]

/-! ### Degenerate thresholds -/

theorem captured_of_exit_eq_zero {smp : Rssi} {c : Cfg} {l : Ld} (h : c.exit = 0) : captured smp c l = false := by
  rw [Bool.eq_false_iff]
  intro hcap
  have hlt : smp.toNat < c.exit.toNat := (captured_iff.mp hcap).2
  rw [h] at hlt
  exact absurd hlt (Nat.not_lt_zero _)

/-- Settles O46: no sample lies below an exit threshold of 0, and none but 255 reaches an enter threshold of 255. -/
theorem degenerateThresholds : Obligations.DegenerateThresholds := by
  refine ⟨fun smp c l => captured_of_exit_eq_zero, fun smp now c l henter hmoved => ?_,
    fun smp c l _ _ hpeak hexit => captured_iff.mpr ⟨hpeak, hexit⟩, fun now s t hexec hexit => ?_⟩
  · by_contra hsmp
    refine hmoved ?_
    have hbelow : ¬ raisesPeak smp c l = true := by
      intro hr
      have hle : c.enter.toNat ≤ smp.toNat := (raisesPeak_iff.mp hr).1
      rw [henter] at hle
      have hlt := smp.isLt
      exact hsmp (BitVec.eq_of_toNat_eq (Nat.le_antisymm (by change _ ≤ 255; omega) hle))
    rw [Ld.peakStep_of_not_raisesPeak hbelow]
  · cases hk : filterStep (readRssi s) s.kf with
    | none =>
      rw [execLdUpdate_none hk] at hexec
      cases hexec
      rw [State.enterFaulted_ld, afterReadRssi_eq]
      exact ⟨rfl, rfl⟩
    | some k =>
      rw [execLdUpdate_some hk] at hexec
      cases hexec
      dsimp only
      rcases Ld.transition_not_captured (round8 k.est) now s.cfg (l := s.ld.storeSample (round8 k.est))
        (captured_of_exit_eq_zero hexit) with e | e
      · rw [e]; exact ⟨rfl, rfl⟩
      · rw [e, Ld.peakStep_eq]; exact ⟨rfl, rfl⟩

end Sys2Proof.Machine
end

section
/-! What each command can do, one inversion lemma for each unit of the block, and from them the statements that speak of every
command: who writes a register, who can fault, what is output, and that `CFG_FREQ` is read by none. -/

namespace Sys2Proof.Machine

open Claims

/-! ### The commands outside the bus -/

/-- `i` is one of the two commands with a filter step, and the step's denominator is 0 after the seed (R244). -/
def FaultsAt (i : Instr) (s : State) : Prop :=
  ((∃ m, i = .kfFilter m) ∨ (∃ now, i = .ldUpdate now)) ∧
    s.kf.init = true ∧ s.kf.cov = 0 ∧ s.kf.pnoise = 0 ∧ s.kf.mnoise = 0

/-- The notifier events of a command (R250); `exec_local` and `exec_cases` say that it outputs them. -/
def notified (i : Instr) (s : State) : List Event :=
  match i with
  | .ldStart => if s.ld.state = .stopped then [.start] else []
  | .ldStop => [.stop]
  | .ldUpdate now => if startsLap now s then [.lapStart] else []
  | _ => []

/-- A tick starts a lap exactly where `transition` says (R183, R186). -/
theorem startsLap_eq {now : Ms} {s : State} {k : Kf} (hk : filterStep (readRssi s) s.kf = some k) :
    startsLap now s = ((s.ld.storeSample (round8 k.est)).transition (round8 k.est) now s.cfg).2 := by
  rw [Ld.transition_starts]
  simp only [startsLap, hk]
  change (match s.ld.state with | .stopped => _ | .waiting => _ | .running => _) =
    (match s.ld.state with | .stopped => _ | .waiting => _ | .running => _)
  cases s.ld.state with
  | stopped => rfl
  | waiting => rfl
  | running => exact Bool.and_comm _ _

theorem startsLap_of_fault {now : Ms} {s : State} (hk : filterStep (readRssi s) s.kf = none) :
    startsLap now s = false := by
  simp only [startsLap, hk]

/-- What a command can leave in the filter registers (R29 to R33, R160, R170, R171). -/
inductive KfWrite (s : State) : Instr → Kf → Prop where
  | keep (i : Instr) : KfWrite s i s.kf
  | filter {m : Rssi} {k : Kf} (hk : filterStep m s.kf = some k) : KfWrite s (.kfFilter m) k
  | update {now : Ms} {k : Kf} (hk : filterStep (readRssi s) s.kf = some k) : KfWrite s (.ldUpdate now) k
  | mnoise (v : BitVec 28) : KfWrite s (.kfSetmnoise v) { s.kf with mnoise := noiseValue v }
  | pnoise (v : BitVec 28) : KfWrite s (.kfSetpnoise v) { s.kf with pnoise := noiseValue v }

/-- What a command can leave in the detector registers and the RAMs (R186, R200, R201, R206). -/
inductive LdWrite (s : State) : Instr → Ld → Prop where
  | keep (i : Instr) : LdWrite s i s.ld
  | start (hs : s.ld.state = .stopped) :
      LdWrite s .ldStart { s.ld with state := .waiting, lapCur := 0, lapAvail := false, peak := 0, peakTs := 0 }
  | stop : LdWrite s .ldStop s.ld.stopped
  | update (now : Ms) (smp : Rssi) : LdWrite s (.ldUpdate now) ((s.ld.storeSample smp).transition smp now s.cfg).1
  | getlap : LdWrite s .ldGetlap { s.ld with lapAvail := false }

/-- What a command can leave in the configuration registers (R230 to R233). -/
inductive CfgWrite (s : State) : Instr → Cfg → Prop where
  | keep (i : Instr) : CfgWrite s i s.cfg
  | minlap (v : Ms) : CfgWrite s (.cfgMinlap v) { s.cfg with minlap := v }
  | enter (v : Rssi) : CfgWrite s (.cfgEnter v) { s.cfg with enter := v }
  | exit (v : Rssi) : CfgWrite s (.cfgExit v) { s.cfg with exit := v }
  | freq (f : Mhz) : CfgWrite s (.cfgFreq f) { s.cfg with freq := f }

/-- What a command can leave in the RXD registers (R120 to R125): no write but with the bus free and an admitted frequency. -/
inductive RxWrite (s : State) : Instr → Rxd → Prop where
  | keep (i : Instr) : RxWrite s i s.rx
  | init (hfree : s.busHeld = false) : RxWrite s .rxInit { s.rx with curFreq := 1111, pwrDown := true }
  | tune {f : Mhz} (now : Ms) (hfree : s.busHeld = false) (hf : admitted f = true) :
      RxWrite s (.rxSetfreq f now) (s.rx.tuned f now)
  | hfc {f : Mhz} (now : Ms) (hfree : s.busHeld = false) (hf : admitted f = true) :
      RxWrite s (.rxHfc f now) (BusOp.onRxd (BusOp.onRxd s.rx (.seg (.change f now))) (.seg (.settle now)))

/-- Everything a command outside the bus can do: fault before any register is written, or write registers of the filter, the
detector and the configuration bank, output its events, and respond. -/
theorem exec_local {i : Instr} {s t : State} (hi : drivesBus i = false) (h : exec i s = .next t) :
    (FaultsAt i s ∧ notified i s = [] ∧
      ∃ e : Env, e.verifyReadback = s.env.verifyReadback ∧ t = { s with env := e }.enterFaulted) ∨
    ∃ (k : Kf) (l : Ld) (c : Cfg) (e : Env) (r : Rsp),
      KfWrite s i k ∧ LdWrite s i l ∧ CfgWrite s i c ∧ e.verifyReadback = s.env.verifyReadback ∧
      t = { s with
        kf := k
        ld := l
        cfg := c
        env := e
        trace := s.trace ++ ((notified i s).map Obs.notify ++ [.rsp s.cur r]) } := by
  have drawn : (if s.rx.retuned then s.env
      else { s.env with adcIn := s.env.adcIn.tail, adcDraws := s.env.adcDraws + 1 }).verifyReadback =
      s.env.verifyReadback := by split <;> rfl
  cases i with
  | rxInit => cases hi
  | rxSetfreq f now => cases hi
  | rxHfc f now => cases hi
  | rxReadrssi =>
    rw [execRxReadrssi_eq] at h
    cases h
    exact .inr ⟨_, _, _, _, _, .keep _, .keep _, .keep _, drawn, rfl⟩
  | kfFilter m =>
    cases hk : filterStep m s.kf with
    | none =>
      rw [execKfFilter_none hk] at h
      cases h
      exact .inl ⟨⟨.inl ⟨m, rfl⟩, filterStep_none hk⟩, rfl, s.env, rfl, rfl⟩
    | some k =>
      rw [execKfFilter_some hk] at h
      cases h
      exact .inr ⟨_, _, _, _, _, .filter hk, .keep _, .keep _, rfl, rfl⟩
  | kfSetmnoise v => cases h; exact .inr ⟨_, _, _, _, _, .mnoise v, .keep _, .keep _, rfl, rfl⟩
  | kfSetpnoise v => cases h; exact .inr ⟨_, _, _, _, _, .pnoise v, .keep _, .keep _, rfl, rfl⟩
  | ldStart =>
    by_cases hs : s.ld.state = .stopped
    · rw [execLdStart_stopped hs] at h
      cases h
      exact .inr ⟨_, _, _, _, ⟨.ok, 1⟩, .keep _, .start hs, .keep _, rfl, by simp only [notified, hs]; rfl⟩
    · rw [execLdStart_started hs] at h
      cases h
      exact .inr ⟨_, _, _, _, ⟨.ok, 0⟩, .keep _, .keep _, .keep _, rfl, by simp only [notified, hs]; rfl⟩
  | ldStop =>
    rw [execLdStop_eq] at h
    cases h
    exact .inr ⟨_, _, _, _, ⟨.ok, 0⟩, .keep _, .stop, .keep _, rfl, rfl⟩
  | ldUpdate now =>
    cases hk : filterStep (readRssi s) s.kf with
    | none =>
      rw [execLdUpdate_none hk, afterReadRssi_eq] at h
      cases h
      exact .inl ⟨⟨.inr ⟨now, rfl⟩, filterStep_none hk⟩, by simp [notified, startsLap_of_fault hk], _, drawn, rfl⟩
    | some k =>
      rw [execLdUpdate_some hk] at h
      cases h
      refine .inr ⟨_, _, _, _, ⟨.ok, (round8 k.est).setWidth 32⟩, .update hk, .update now (round8 k.est), .keep _, drawn,
        ?_⟩
      simp only [notified, startsLap_eq hk, apply_ite (List.map Obs.notify), List.map_cons, List.map_nil]
  | ldGetrssi => cases h; exact .inr ⟨_, _, _, _, _, .keep _, .keep _, .keep _, rfl, rfl⟩
  | ldGetlap => cases h; exact .inr ⟨_, _, _, _, _, .keep _, .getlap, .keep _, rfl, rfl⟩
  | ldIslapavail => cases h; exact .inr ⟨_, _, _, _, _, .keep _, .keep _, .keep _, rfl, rfl⟩
  | cfgMinlap v => cases h; exact .inr ⟨_, _, _, _, _, .keep _, .keep _, .minlap v, rfl, rfl⟩
  | cfgEnter v => cases h; exact .inr ⟨_, _, _, _, _, .keep _, .keep _, .enter v, rfl, rfl⟩
  | cfgExit v => cases h; exact .inr ⟨_, _, _, _, _, .keep _, .keep _, .exit v, rfl, rfl⟩
  | cfgFreq f =>
    simp only [exec, execCfgFreq, withFreq] at h
    split at h
    · cases h; exact .inr ⟨_, _, _, _, _, .keep _, .keep _, .freq f, rfl, rfl⟩
    · cases h; exact .inr ⟨_, _, _, _, _, .keep _, .keep _, .keep _, rfl, rfl⟩

/-! ### Every command -/

theorem drivesBus_iff (i : Instr) :
    drivesBus i = true ↔ i = .rxInit ∨ (∃ f now, i = .rxSetfreq f now) ∨ ∃ f now, i = .rxHfc f now := by
  cases i <;> simp [drivesBus]

/-- The commands that have a program are the bus commands with admitted operands (R71, R88). -/
theorem exists_busProgram_iff (i : Instr) :
    (∃ ops, busProgram i = some ops) ↔ drivesBus i = true ∧ i.wellFormed = true := by
  cases i <;> simp [busProgram, drivesBus, Instr.wellFormed]

theorem notified_of_drivesBus {i : Instr} (hi : drivesBus i = true) (s : State) : notified i s = [] := by
  rcases (drivesBus_iff i).mp hi with rfl | ⟨f, now, rfl⟩ | ⟨f, now, rfl⟩ <;> rfl

/-- A list of outputs with neither a response nor an event has frames alone. -/
theorem responses_map_frame (fs : List BusFrame) : responses (fs.map Obs.frame) = [] := by
  simp [responses, List.filter_eq_nil_iff]

theorem notifications_map_frame (fs : List BusFrame) : notifications (fs.map Obs.frame) = [] := by
  simp [notifications, List.filter_eq_nil_iff]

theorem responses_map_notify (es : List Event) : responses (es.map Obs.notify) = [] := by
  simp [responses, List.filter_eq_nil_iff]

theorem notifications_map_notify (es : List Event) : notifications (es.map Obs.notify) = es.map Obs.notify := by
  simp [notifications, List.filter_eq_self]

theorem busFrames_map_notify (es : List Event) : busFrames (es.map Obs.notify) = [] := by
  simp [busFrames, List.filter_eq_nil_iff]

/-- Where the program of a bus command takes the RXD registers is a write of that command (R120, R121, R125). -/
theorem rxWrite_of_busProgram {i : Instr} {ops : List BusOp} {s : State} (h : busProgram i = some ops)
    (hfree : s.busHeld = false) : RxWrite s i (ops.foldl BusOp.onRxd s.rx) := by
  cases i with
  | rxInit => cases h; exact .init hfree
  | rxSetfreq f now =>
    obtain ⟨hf, h⟩ := Option.ite_none_right_eq_some.mp h
    cases h
    exact .tune now hfree hf
  | rxHfc f now =>
    obtain ⟨hf, h⟩ := Option.ite_none_right_eq_some.mp h
    cases h
    exact .hfc now hfree hf
  | _ => cases h

/-- What a command that completes leaves alone and may write, and its outputs: its frames or events, and then one response (R84). -/
structure Completes (i : Instr) (s t : State) : Prop where
  rx : RxWrite s i t.rx
  kf : KfWrite s i t.kf
  ld : LdWrite s i t.ld
  cfg : CfgWrite s i t.cfg
  pins : t.pins = s.pins ∨ (s.busHeld = false ∧ (s.pins = Pins.idleLevels → t.pins = Pins.idleLevels))
  seq : t.seq = s.seq
  faulted : t.faulted = s.faulted
  p0 : t.p0 = s.p0
  p1 : t.p1 = s.p1
  cur : t.cur = s.cur
  verifyReadback : t.env.verifyReadback = s.env.verifyReadback
  outputs : ∃ out r, t.trace = s.trace ++ (out ++ [.rsp s.cur r]) ∧ responses out = [] ∧
    notifications out = (notified i s).map Obs.notify

/-- Everything a command can do: wait for the bus, fault, or complete. -/
theorem exec_cases {i : Instr} {s t : State} (h : exec i s = .next t) :
    ((∃ ops, busProgram i = some ops) ∧ t = s.waitForBus i) ∨
    (FaultsAt i s ∧ notified i s = [] ∧
      ∃ e : Env, e.verifyReadback = s.env.verifyReadback ∧ t = { s with env := e }.enterFaulted) ∨
    Completes i s t := by
  cases hi : drivesBus i with
  | true =>
    have hevents := notified_of_drivesBus hi s
    rcases busCommand_frame ((drivesBus_iff i).mp hi) h with
      ⟨hwf, _, e⟩ | ⟨_, rfl⟩ | ⟨_, hfree, ops, p, e, fs, v, hops, hp, he, rfl⟩
    · exact .inl ⟨(exists_busProgram_iff i).mpr ⟨hi, hwf⟩, e⟩
    · exact .inr (.inr ⟨.keep i, .keep i, .keep i, .keep i, .inl rfl, rfl, rfl, rfl, rfl, rfl, rfl, [], _, rfl, rfl,
        by rw [hevents]; rfl⟩)
    · refine .inr (.inr ⟨rxWrite_of_busProgram hops hfree, .keep i, .keep i, .keep i, .inr ⟨hfree, hp⟩, rfl, rfl, rfl, rfl,
        rfl, ?_, fs.map Obs.frame, _, rfl, responses_map_frame fs, ?_⟩)
      · rcases he with rfl | rfl <;> rfl
      · rw [hevents]; exact notifications_map_frame fs
  | false =>
    rcases exec_local hi h with hfault | ⟨k, l, c, e, r, hk, hl, hc, he, rfl⟩
    · exact .inr (.inl hfault)
    · exact .inr (.inr ⟨.keep i, hk, hl, hc, .inl rfl, rfl, rfl, rfl, rfl, rfl, he, _, r, rfl, responses_map_notify _, notifications_map_notify _⟩)

/-- Settles O16: a command that waits or completes leaves FAULTED as it was. -/
theorem faultedOnlyByZeroDenominator : Obligations.FaultedOnlyByZeroDenominator := by
  intro i s t h hchanged
  rcases exec_cases h with ⟨_, rfl⟩ | ⟨hfault, _⟩ | hdone
  · exact absurd (by simp) hchanged
  · exact hfault
  · exact absurd hdone.faulted hchanged

theorem Completes.port_eq {i : Instr} {s t : State} (h : Completes i s t) (p : Port) : t.port p = s.port p :=
  s.port_congr t h.p0 h.p1 p

/-- Settles O50: waiting and faulting output nothing, and leave the port waiting or the block faulted. -/
theorem oneResponsePerCommand : Obligations.OneResponsePerCommand := by
  intro i s t hup hfree h
  rcases exec_cases h with ⟨_, rfl⟩ | ⟨_, _, e, _, rfl⟩ | hdone
  · exact ⟨fun _ hidle => absurd hidle (by simp), fun _ => by simp⟩
  · exact ⟨fun hnone => absurd hnone (by simp), fun _ => rfl⟩
  · obtain ⟨out, r, htrace, hout, _⟩ := hdone.outputs
    refine ⟨fun _ _ => ⟨r, ?_, ?_⟩, ?_⟩
    · rw [htrace, ← List.append_assoc, List.getLast?_concat]
    · rw [htrace]
      simp only [responses, List.filter_append] at hout ⊢
      rw [hout]
      rfl
    · rintro (hfault | hbusy)
      · exact absurd (hdone.faulted.trans hup) hfault
      · rw [Completes.port_eq hdone] at hbusy
        exact absurd hfree hbusy

/-- The events of a command are those `notified` lists, whether it completes or not. -/
theorem exec_notifications {i : Instr} {s t : State} (h : exec i s = .next t) :
    notifications t.trace = notifications s.trace ++ (notified i s).map Obs.notify := by
  rcases exec_cases h with ⟨hprog, rfl⟩ | ⟨_, hevents, e, _, rfl⟩ | hdone
  · rw [notified_of_drivesBus ((exists_busProgram_iff i).mp hprog).1]; simp
  · rw [hevents]; simp
  · obtain ⟨out, r, htrace, _, hout⟩ := hdone.outputs
    rw [htrace]
    simp only [notifications, List.filter_append] at hout ⊢
    rw [hout]
    simp

/-- Settles O51: `notified` lists START, STOP and LAPSTART where the statement puts them. -/
theorem notifierEventsOfEachCommand : Obligations.NotifierEventsOfEachCommand := by
  refine ⟨fun i s t h => ?_, by intro e; cases e <;> decide, rfl, rfl, rfl⟩
  have hevents := exec_notifications h
  refine ⟨?_, ?_, ?_, fun hstart hstop hupdate => ?_⟩
  · rintro rfl
    rw [hevents]; simp only [notified]; split <;> rfl
  · rintro rfl
    exact hevents
  · rintro now rfl
    rw [hevents]; simp only [notified]; split <;> rfl
  · have hnone : notified i s = [] := by
      cases i with
      | ldStart => exact absurd rfl hstart
      | ldStop => exact absurd rfl hstop
      | ldUpdate now => exact absurd rfl (hupdate now)
      | _ => rfl
    rw [hevents, hnone]; simp

/-! ### The writers of each register -/

/-- The registers of each unit after any command, whether it waits, faults or completes. -/
theorem exec_writes {i : Instr} {s t : State} (h : exec i s = .next t) :
    RxWrite s i t.rx ∧ KfWrite s i t.kf ∧ LdWrite s i t.ld ∧ CfgWrite s i t.cfg ∧
      t.env.verifyReadback = s.env.verifyReadback := by
  rcases exec_cases h with ⟨_, rfl⟩ | ⟨_, _, e, he, rfl⟩ | hdone
  · rw [State.waitForBus_eq, State.setPort_rx, State.setPort_kf, State.setPort_ld, State.setPort_cfg, State.setPort_env]
    exact ⟨.keep i, .keep i, .keep i, .keep i, rfl⟩
  · exact ⟨.keep i, .keep i, .keep i, .keep i, he⟩
  · exact ⟨hdone.rx, hdone.kf, hdone.ld, hdone.cfg, hdone.verifyReadback⟩

section
variable {s : State} {i : Instr}

/-- A tune never clears `RETUNED`. -/
theorem Rxd.tuned_retuned {f : Mhz} {now : Ms} {r : Rxd} (h : r.retuned = true) : (r.tuned f now).retuned = true := by
  unfold Rxd.tuned
  split
  · exact h
  · rfl

theorem RxWrite.retuned_of_ne_hfc {r : Rxd} (h : RxWrite s i r) (hi : ∀ f now, i ≠ .rxHfc f now)
    (hret : s.rx.retuned = true) : r.retuned = true := by
  cases h with
  | keep => exact hret
  | init => exact hret
  | tune => exact Rxd.tuned_retuned hret
  | @hfc f now => exact absurd rfl (hi f now)

/-- `RX_HFC` of the sentinel arms nothing: its change powers the module down, and settling only clears `RETUNED` (R120). -/
theorem onRxd_hfc_sentinel (now : Ms) (r : Rxd) :
    let r' := BusOp.onRxd (BusOp.onRxd r (.seg (.change 1111 now))) (.seg (.settle now))
    r'.retuneTs = r.retuneTs ∧ (r'.retuned = true → r.retuned = true) := by
  have hchange : ∃ f d, BusOp.onRxd r (.seg (.change 1111 now)) = { r with curFreq := f, pwrDown := d } := by
    simp only [BusOp.onRxd]
    split
    · exact ⟨_, _, rfl⟩
    · exact ⟨_, _, rfl⟩
  obtain ⟨f, d, e⟩ := hchange
  rw [e]
  simp only [BusOp.onRxd]
  split
  · exact ⟨rfl, fun h => by cases h⟩
  · exact ⟨rfl, id⟩

theorem RxWrite.timestamp_of_no_tune {r : Rxd} (h : RxWrite s i r)
    (hi : ∀ f now, f ≠ 1111 → i ≠ .rxSetfreq f now ∧ i ≠ .rxHfc f now) :
    r.retuneTs = s.rx.retuneTs ∧ (r.retuned = true → s.rx.retuned = true) := by
  cases h with
  | keep => exact ⟨rfl, id⟩
  | init => exact ⟨rfl, id⟩
  | @tune f now =>
    have hf : f = 1111 := by_contra fun hne => (hi f now hne).1 rfl
    subst hf
    exact ⟨rfl, id⟩
  | @hfc f now =>
    have hf : f = 1111 := by_contra fun hne => (hi f now hne).2 rfl
    subst hf
    exact onRxd_hfc_sentinel now s.rx

theorem KfWrite.writers {k : Kf} (h : KfWrite s i k) :
    ((∀ m, i ≠ .kfFilter m) → (∀ now, i ≠ .ldUpdate now) →
      k.init = s.kf.init ∧ k.est = s.kf.est ∧ k.cov = s.kf.cov) ∧
    (s.kf.init = true → k.init = true) ∧
    ((∀ v, i ≠ .kfSetmnoise v) → k.mnoise = s.kf.mnoise) ∧
    ((∀ v, i ≠ .kfSetpnoise v) → k.pnoise = s.kf.pnoise) := by
  cases h with
  | keep => exact ⟨fun _ _ => ⟨rfl, rfl, rfl⟩, id, fun _ => rfl, fun _ => rfl⟩
  | @filter m k hk =>
    obtain ⟨hinit, hmnoise, hpnoise⟩ := filterStep_frame hk
    exact ⟨fun hm _ => absurd rfl (hm m), fun _ => hinit, fun _ => hmnoise, fun _ => hpnoise⟩
  | @update now k hk =>
    obtain ⟨hinit, hmnoise, hpnoise⟩ := filterStep_frame hk
    exact ⟨fun _ hn => absurd rfl (hn now), fun _ => hinit, fun _ => hmnoise, fun _ => hpnoise⟩
  | mnoise v => exact ⟨fun _ _ => ⟨rfl, rfl, rfl⟩, id, fun hv => absurd rfl (hv v), fun _ => rfl⟩
  | pnoise v => exact ⟨fun _ _ => ⟨rfl, rfl, rfl⟩, id, fun _ => rfl, fun hv => absurd rfl (hv v)⟩

/-- A tick never empties the mailbox. -/
theorem Ld.transition_lapAvail {smp : Rssi} {now : Ms} {c : Cfg} {l : Ld} (h : l.lapAvail = true) :
    (l.transition smp now c).1.lapAvail = true := by
  have hpeak : (l.peakStep smp now c).lapAvail = true := by rw [Ld.peakStep_eq]; exact h
  rcases Ld.transition_cases smp now c l with
    ⟨_, e⟩ | ⟨_, _, e⟩ | ⟨_, _, e⟩ | ⟨_, _, _, e⟩ | ⟨_, _, _, e⟩ | ⟨_, _, e⟩ <;> rw [e]
  · exact h
  · exact hpeak
  · exact hpeak
  · rfl
  · exact hpeak
  · exact h

theorem LdWrite.writers {l : Ld} (h : LdWrite s i l) :
    ((∀ now, i ≠ .ldUpdate now) → i ≠ .ldStart → i ≠ .ldStop →
      l.state = s.ld.state ∧ l.lapCur = s.ld.lapCur ∧ l.peak = s.ld.peak ∧ l.peakTs = s.ld.peakTs) ∧
    ((∀ now, i ≠ .ldUpdate now) → i ≠ .ldStart → i ≠ .ldStop → i ≠ .ldGetlap → l = s.ld) ∧
    ((∀ now, i ≠ .ldUpdate now) → i ≠ .ldStop →
      l.rssiCur = s.ld.rssiCur ∧ l.rssiRam = s.ld.rssiRam ∧ l.lapRam = s.ld.lapRam) ∧
    ((∀ now, i ≠ .ldUpdate now) → l.lapStart = s.ld.lapStart ∧ (l.lapAvail = true → s.ld.lapAvail = true)) ∧
    (i ≠ .ldStart → i ≠ .ldStop → i ≠ .ldGetlap → s.ld.lapAvail = true → l.lapAvail = true) := by
  cases h with
  | keep => exact ⟨fun _ _ _ => ⟨rfl, rfl, rfl, rfl⟩, fun _ _ _ _ => rfl, fun _ _ => ⟨rfl, rfl, rfl⟩, fun _ => ⟨rfl, id⟩,
      fun _ _ _ => id⟩
  | start => exact ⟨fun _ h => absurd rfl h, fun _ h => absurd rfl h, fun _ _ => ⟨rfl, rfl, rfl⟩,
      fun _ => ⟨rfl, fun h => by cases h⟩, fun h => absurd rfl h⟩
  | stop => exact ⟨fun _ _ h => absurd rfl h, fun _ _ h => absurd rfl h, fun _ h => absurd rfl h,
      fun _ => ⟨rfl, fun h => by cases h⟩, fun _ h => absurd rfl h⟩
  | update now smp => exact ⟨fun h => absurd rfl (h now), fun h => absurd rfl (h now), fun h => absurd rfl (h now),
      fun h => absurd rfl (h now), fun _ _ _ => Ld.transition_lapAvail (l := s.ld.storeSample smp)⟩
  | getlap => exact ⟨fun _ _ _ => ⟨rfl, rfl, rfl, rfl⟩, fun _ _ _ h => absurd rfl h, fun _ _ => ⟨rfl, rfl, rfl⟩,
      fun _ => ⟨rfl, fun h => by cases h⟩, fun _ _ h => absurd rfl h⟩

theorem CfgWrite.writers {c : Cfg} (h : CfgWrite s i c) :
    ((∀ v, i ≠ .cfgMinlap v) → c.minlap = s.cfg.minlap) ∧ ((∀ v, i ≠ .cfgEnter v) → c.enter = s.cfg.enter) ∧
    ((∀ v, i ≠ .cfgExit v) → c.exit = s.cfg.exit) ∧ ((∀ v, i ≠ .cfgFreq v) → c.freq = s.cfg.freq) := by
  cases h with
  | keep => exact ⟨fun _ => rfl, fun _ => rfl, fun _ => rfl, fun _ => rfl⟩
  | minlap v => exact ⟨fun h => absurd rfl (h v), fun _ => rfl, fun _ => rfl, fun _ => rfl⟩
  | enter v => exact ⟨fun _ => rfl, fun h => absurd rfl (h v), fun _ => rfl, fun _ => rfl⟩
  | exit v => exact ⟨fun _ => rfl, fun _ => rfl, fun h => absurd rfl (h v), fun _ => rfl⟩
  | freq v => exact ⟨fun _ => rfl, fun _ => rfl, fun _ => rfl, fun h => absurd rfl (h v)⟩

end

/-- A command outside the bus leaves the receiver and the bus alone; a fault idles the pins (R26, R244). -/
theorem exec_local_bus {i : Instr} {s t : State} (hi : drivesBus i = false) (h : exec i s = .next t) :
    (t.rx = s.rx ∧ t.busWaits = s.busWaits ∧ busFrames t.trace = busFrames s.trace) ∧
    (t.pins = s.pins ∨ (FaultsAt i s ∧ t.faulted ≠ none ∧ t.pins = idle)) := by
  rcases exec_local hi h with ⟨hfault, _, e, _, rfl⟩ | ⟨k, l, c, e, r, _, _, _, _, rfl⟩
  · exact ⟨⟨rfl, rfl, rfl⟩, .inr ⟨hfault, by simp, rfl⟩⟩
  · have hevents := busFrames_map_notify (notified i s)
    refine ⟨⟨rfl, rfl, ?_⟩, .inl rfl⟩
    simp only [busFrames, List.filter_append] at hevents ⊢
    rw [hevents]
    simp

/-- `SEQ` and FAULTED are as they were but for a fault, which idles the one and sets the other (R244; log 8). -/
theorem exec_seq_faulted {i : Instr} {s t : State} (h : exec i s = .next t) :
    (t.seq = s.seq ∧ t.faulted = s.faulted) ∨ (FaultsAt i s ∧ t.faulted ≠ none ∧ t.seq = none) := by
  rcases exec_cases h with ⟨_, rfl⟩ | ⟨hfault, _, e, _, rfl⟩ | hdone
  · exact .inl ⟨by simp, by simp⟩
  · exact .inr ⟨hfault, by simp, rfl⟩
  · exact .inl ⟨hdone.seq, hdone.faulted⟩

theorem not_faultsAt {i : Instr} {s : State} (hm : ∀ m, i ≠ .kfFilter m) (hn : ∀ now, i ≠ .ldUpdate now) :
    ¬ FaultsAt i s := by
  rintro ⟨⟨m, e⟩ | ⟨now, e⟩, _⟩
  · exact hm m e
  · exact hn now e

/-- Settles O49, unit by unit. -/
theorem eachRegisterHasItsWriters : Obligations.EachRegisterHasItsWriters := by
  intro i s t h
  obtain ⟨hrx, hkf, hld, hcfg, hverify⟩ := exec_writes h
  obtain ⟨hfilter, hinit, hmnoise, hpnoise⟩ := hkf.writers
  obtain ⟨hlife, hwhole, hrams, hmailbox, hfull⟩ := hld.writers
  obtain ⟨hminlap, henter, hexit, hfreq⟩ := hcfg.writers
  refine ⟨fun hi => (exec_local_bus hi h).1, fun hi => (exec_local_bus hi h).2.imp_right And.right, ?_, fun hm hn => ?_,
    hrx.retuned_of_ne_hfc, hrx.timestamp_of_no_tune, hfilter, hinit, hmnoise, hpnoise, hlife, hwhole, hrams, hmailbox, hfull,
    hminlap, henter, hexit, hfreq, hverify⟩
  · exact (exec_seq_faulted h).imp And.left And.right
  · have hno := not_faultsAt (s := s) hm hn
    obtain ⟨hseq, hfaulted⟩ := (exec_seq_faulted h).resolve_right fun hf => hno hf.1
    exact ⟨hseq, hfaulted, fun hi => (exec_local_bus hi h).2.resolve_right fun hf => hno hf.1⟩

/-! ### `CFG_FREQ` is read by no command -/

/-- The state with `CFG_FREQ` holding `x`. -/
def State.withCfgFreq (x : Mhz) (s : State) : State := { s with cfg := { s.cfg with freq := x } }

section
variable (x : Mhz) (s : State)

@[simp] theorem State.withCfgFreq_rx : (s.withCfgFreq x).rx = s.rx := rfl
@[simp] theorem State.withCfgFreq_busHeld : (s.withCfgFreq x).busHeld = s.busHeld := rfl

theorem setFreqCore_withCfgFreq (f : Mhz) (now : Ms) :
    setFreqCore f now (s.withCfgFreq x) = (setFreqCore f now s).withCfgFreq x := by
  by_cases hf : f = Config.powerDownFreq
  · subst hf; rfl
  · rw [setFreqCore_tune hf, setFreqCore_tune hf]; rfl

theorem hfcChange_withCfgFreq (f : Mhz) (now : Ms) :
    hfcChange f now (s.withCfgFreq x) = (hfcChange f now s).withCfgFreq x := by
  unfold hfcChange
  rw [State.withCfgFreq_rx, setFreqCore_withCfgFreq]
  split <;> rfl

theorem hfcSettle_withCfgFreq (now : Ms) : hfcSettle now (s.withCfgFreq x) = (hfcSettle now s).withCfgFreq x := by
  have hverifies : verifies (s.withCfgFreq x) = verifies s := rfl
  unfold hfcSettle
  rw [State.withCfgFreq_rx, hverifies]
  split
  · split <;> rfl
  · rfl

theorem hfcReport_withCfgFreq (f : Mhz) (now : Ms) : hfcReport f now (s.withCfgFreq x) = hfcReport f now s := by
  unfold hfcReport
  rw [hfcChange_withCfgFreq]
  rfl

theorem waitForBus_withCfgFreq (i : Instr) : (s.withCfgFreq x).waitForBus i = (s.waitForBus i).withCfgFreq x := by
  unfold State.waitForBus State.setBusy State.setPort
  cases h : s.cur <;> simp only [State.withCfgFreq, h] <;> rfl

/-- A bus command whose run does not read `CFG_FREQ` does not read it when it waits either. -/
theorem busCommand_withCfgFreq {i : Instr} {run : State → State}
    (hrun : run (s.withCfgFreq x) = (run s).withCfgFreq x) :
    busCommand i run (s.withCfgFreq x) = (busCommand i run s).withCfgFreq x := by
  unfold busCommand
  rw [State.withCfgFreq_busHeld, hrun, waitForBus_withCfgFreq]
  split <;> rfl

theorem withFreq_withCfgFreq {f : Mhz} {run : State → State}
    (hrun : run (s.withCfgFreq x) = (run s).withCfgFreq x) :
    withFreq f run (s.withCfgFreq x) = (withFreq f run s).withCfgFreq x := by
  unfold withFreq
  rw [hrun]
  split <;> rfl

end

/-- A command other than `CFG_FREQ` does the same whatever `CFG_FREQ` holds (R44). -/
theorem exec_withCfgFreq {i : Instr} {s t : State} (x : Mhz) (h : exec i s = .next t) (hi : ∀ f, i ≠ .cfgFreq f) :
    exec i (s.withCfgFreq x) = .next (t.withCfgFreq x) := by
  cases i with
  | rxInit =>
    cases h
    refine congrArg _ (busCommand_withCfgFreq x s ?_)
    rfl
  | rxSetfreq f now =>
    cases h
    refine congrArg _ (withFreq_withCfgFreq x s (busCommand_withCfgFreq x s ?_))
    rw [setFreqCore_withCfgFreq]; rfl
  | rxHfc f now =>
    cases h
    refine congrArg _ (withFreq_withCfgFreq x s (busCommand_withCfgFreq x s ?_))
    rw [hfcChange_withCfgFreq, hfcSettle_withCfgFreq, hfcReport_withCfgFreq]; rfl
  | rxReadrssi =>
    rw [execRxReadrssi_eq] at h ⊢
    cases h
    rfl
  | kfFilter m =>
    cases hk : filterStep m s.kf with
    | none => rw [execKfFilter_none hk] at h; cases h; exact execKfFilter_none (s := s.withCfgFreq x) hk
    | some k => rw [execKfFilter_some hk] at h; cases h; exact execKfFilter_some (s := s.withCfgFreq x) hk
  | ldStart =>
    by_cases hs : s.ld.state = .stopped
    · rw [execLdStart_stopped hs] at h; cases h; exact execLdStart_stopped (s := s.withCfgFreq x) hs
    · rw [execLdStart_started hs] at h; cases h; exact execLdStart_started (s := s.withCfgFreq x) hs
  | ldUpdate now =>
    cases hk : filterStep (readRssi s) s.kf with
    | none =>
      rw [execLdUpdate_none hk] at h
      cases h
      rw [execLdUpdate_none (s := s.withCfgFreq x) hk, afterReadRssi_eq, afterReadRssi_eq]
      rfl
    | some k => rw [execLdUpdate_some hk] at h; cases h; exact execLdUpdate_some (s := s.withCfgFreq x) hk
  | cfgFreq f => exact absurd rfl (hi f)
  | kfSetmnoise v => cases h; rfl
  | kfSetpnoise v => cases h; rfl
  | ldStop => cases h; rfl
  | ldGetrssi => cases h; rfl
  | ldGetlap => cases h; rfl
  | ldIslapavail => cases h; rfl
  | cfgMinlap v => cases h; rfl
  | cfgEnter v => cases h; rfl
  | cfgExit v => cases h; rfl

/-- Settles O48. -/
theorem configFreqIsUnread : Obligations.ConfigFreqIsUnread :=
  fun _ _ _ x h hi => exec_withCfgFreq x h hi

end Sys2Proof.Machine
end

section
/-! The invariants every step keeps (R48, R163, R26, R73). A step leaves the filter and the detector as they were, resets them,
or runs one whole command, so the first three reduce to the inversion lemmas of the commands; for the bus and the pins an
action of the flight is followed too, along `act_onRxd` and the levels of each phase. -/

namespace Sys2Proof.Machine

/-! ### The filter and the detector -/

/-- An action of a flight, or its response, leaves every register but those of the receiver alone. -/
theorem advance_frame (f : Flight) (s : State) :
    (advance f s).kf = s.kf ∧ (advance f s).ld = s.ld ∧ (advance f s).cfg = s.cfg ∧ (advance f s).faulted = s.faulted := by
  by_cases h : f.todo = []
  · rw [advance_done h]; simp
  · obtain ⟨hframe, _⟩ := act_frame (s, f)
    rw [advance_act h, hframe]; simp

/-- What a step can do to the filter and the detector: nothing, a reset, or one whole command. -/
theorem step_units {s t : State} (h : step s = .next t) :
    (t.kf = s.kf ∧ t.ld = s.ld) ∨ (t.kf = State.reset.kf ∧ t.ld = State.reset.ld) ∨
    ∃ i u, u.kf = s.kf ∧ u.ld = s.ld ∧ exec i u = .next t := by
  have entered_units : ∀ p q (u : State), (entered p q u).kf = u.kf ∧ (entered p q u).ld = u.ld := by simp [entered]
  rcases step_cases h with ⟨r, rfl⟩ | ⟨r, rfl⟩ | ⟨r, whole, p, _, hturn⟩
  · exact .inl ⟨rfl, rfl⟩
  · exact .inr (.inl ⟨rfl, rfl⟩)
  rcases runPort_cases hturn with rfl | ⟨f, _, rfl⟩ | ⟨_, q, ⟨i, hi⟩ | ⟨i, ops, _, ⟨_, rfl⟩ | ⟨_, rfl⟩⟩ | ⟨st, rfl⟩⟩
  · exact .inl ⟨rfl, rfl⟩
  · obtain ⟨hkf, hld, _⟩ := advance_frame f ((s.setSched r).setCur p)
    exact .inl ⟨hkf, hld⟩
  · obtain ⟨hkf, hld⟩ := entered_units p q (s.setSched r)
    exact .inr (.inr ⟨i, _, hkf, hld, hi⟩)
  · obtain ⟨hkf, hld⟩ := entered_units p q (s.setSched r)
    exact .inl ⟨by simpa using hkf, by simpa using hld⟩
  · obtain ⟨hkf, hld⟩ := entered_units p q (s.setSched r)
    obtain ⟨hkf', hld', _⟩ := advance_frame (Flight.start ops) (entered p q (s.setSched r))
    exact .inl ⟨hkf'.trans hkf, hld'.trans hld⟩
  · exact .inl (entered_units p q (s.setSched r))

/-- A property of the filter and the detector that holds after reset and that every command keeps is kept by every step. -/
theorem step_keeps_units {P : Kf → Ld → Prop} (hreset : P State.reset.kf State.reset.ld)
    (hexec : ∀ i u t, exec i u = .next t → P u.kf u.ld → P t.kf t.ld) {s t : State} (h : step s = .next t)
    (hs : P s.kf s.ld) : P t.kf t.ld := by
  rcases step_units h with ⟨hkf, hld⟩ | ⟨hkf, hld⟩ | ⟨i, u, hkf, hld, hi⟩
  · rw [hkf, hld]; exact hs
  · rw [hkf, hld]; exact hreset
  · exact hexec i u t hi (by rw [hkf, hld]; exact hs)

theorem ramOk_iff (l : Ld) : ramOk l = true ↔ Memory.wf 100 l.rssiRam = true ∧ Memory.wf 50 l.lapRam = true := by
  rw [ramOk, Bool.and_eq_true]; rfl

/-- A tick writes one entry of each ring at most, at the ring's cursor (R61, R63). -/
theorem ramOk_tick {smp : Rssi} {now : Ms} {c : Cfg} {l : Ld} (h : ramOk l = true) :
    ramOk ((l.storeSample smp).transition smp now c).1 = true := by
  obtain ⟨hrssi, hlap⟩ := (ramOk_iff l).mp h
  obtain ⟨hram, _⟩ := Ld.transition_frame smp now c (l.storeSample smp)
  have hpeak : ((l.storeSample smp).peakStep smp now c).lapRam = l.lapRam := by rw [Ld.peakStep_eq]; rfl
  rw [ramOk_iff, hram]
  refine ⟨Memory.wf_write hrssi l.rssiCur.isLt, ?_⟩
  rcases Ld.transition_cases smp now c (l.storeSample smp) with
    ⟨_, e⟩ | ⟨_, _, e⟩ | ⟨_, _, e⟩ | ⟨_, _, _, e⟩ | ⟨_, _, _, e⟩ | ⟨_, _, e⟩ <;> rw [e]
  · exact hlap
  · exact hpeak ▸ hlap
  · exact hpeak ▸ hlap
  · exact Memory.wf_write (hpeak ▸ hlap) (Fin.isLt _)
  · exact hpeak ▸ hlap
  · exact hlap

theorem LdWrite.ramOk {i : Instr} {s : State} {l : Ld} (h : LdWrite s i l) (hs : ramOk s.ld = true) :
    Machine.ramOk l = true := by
  cases h with
  | keep => exact hs
  | start => exact hs
  | stop => exact ramOk_reset
  | update now smp => exact ramOk_tick hs
  | getlap => exact hs

/-- Settles O53. -/
theorem stepKeepsRamsCanonical : Obligations.StepKeepsRamsCanonical := by
  intro s t h hs
  refine step_keeps_units (P := fun _ l => ramOk l = true) ramOk_reset (fun i u t hi hu => ?_) h hs
  obtain ⟨_, _, hld, _⟩ := exec_writes hi
  exact hld.ramOk hu

/-- A noise operand has 28 bits, so a noise register stays below `NOISE_LIMIT` (R81). -/
theorem noiseValue_lt (v : BitVec 28) : (noiseValue v).toNat < 2 ^ 28 := by
  rw [noiseValue, BitVec.toNat_setWidth_of_le (by decide)]
  exact v.isLt

theorem KfWrite.filterOk {i : Instr} {s : State} {k : Kf} (h : KfWrite s i k) (hs : filterOk s.kf = true) :
    Machine.filterOk k = true := by
  obtain ⟨hmnoise, hpnoise, hrest⟩ := (filterOk_iff s.kf).mp hs
  cases h with
  | keep => exact hs
  | filter hk => exact filterOk_filterStep hs hk
  | update hk => exact filterOk_filterStep hs hk
  | mnoise v => exact (filterOk_iff _).mpr ⟨noiseValue_lt v, hpnoise, hrest⟩
  | pnoise v => exact (filterOk_iff _).mpr ⟨hmnoise, noiseValue_lt v, hrest⟩

/-- Settles O54. -/
theorem stepKeepsFilterBounds : Obligations.StepKeepsFilterBounds := by
  intro s t h hs
  refine step_keeps_units (P := fun k _ => filterOk k = true) filterOk_reset (fun i u t hi hu => ?_) h hs
  obtain ⟨_, hkf, _⟩ := exec_writes hi
  exact hkf.filterOk hu

theorem detectorOk_iff (l : Ld) :
    detectorOk l = true ↔
      (l.peak = 0 → l.peakTs = 0) ∧ (l.state = .stopped → l.lapRam = [] ∧ l.lapCur = 0) ∧
      (l.lapAvail = true → l.state = .running) := by
  simp [detectorOk, Classical.or_iff_not_imp_left, and_assoc]

/-- A peak step keeps the detector sound: a sample that raises the peak is not 0 (R180). -/
theorem detectorOk_peakStep {smp : Rssi} {now : Ms} {c : Cfg} {l : Ld} (h : detectorOk l = true) :
    detectorOk (l.peakStep smp now c) = true := by
  obtain ⟨_, hstopped, havail⟩ := (detectorOk_iff l).mp h
  by_cases hr : raisesPeak smp c l = true
  · have hpos : smp ≠ 0 := by
      rintro rfl
      exact absurd (raisesPeak_iff.mp hr).2 (Nat.not_lt_zero _)
    rw [Ld.peakStep_of_raisesPeak hr]
    exact (detectorOk_iff _).mpr ⟨fun h0 => absurd h0 hpos, hstopped, havail⟩
  · rw [Ld.peakStep_of_not_raisesPeak hr]
    exact h

/-- Wherever a lap starts, Running is entered or kept and the peak is cleared with its time (R183, R186). -/
theorem detectorOk_startLap {l : Ld} (h : l.state = .running) : detectorOk l.startLap = true := by
  have hstate : l.startLap.state = .running := h
  exact (detectorOk_iff _).mpr ⟨fun _ => rfl, fun hs => absurd (hstate.symm.trans hs) (by decide), fun _ => hstate⟩

theorem detectorOk_transition {smp : Rssi} {now : Ms} {c : Cfg} {l : Ld} (h : detectorOk l = true) :
    detectorOk (l.transition smp now c).1 = true := by
  have hpeak := detectorOk_peakStep (smp := smp) (now := now) (c := c) h
  have hstate : (l.peakStep smp now c).state = l.state := by rw [Ld.peakStep_eq]
  rcases Ld.transition_cases smp now c l with
    ⟨_, e⟩ | ⟨_, _, e⟩ | ⟨_, _, e⟩ | ⟨hs, _, _, e⟩ | ⟨_, _, _, e⟩ | ⟨_, _, e⟩ <;> rw [e]
  · exact h
  · exact detectorOk_startLap rfl
  · exact hpeak
  · exact detectorOk_startLap (hstate.trans hs)
  · exact hpeak
  · exact h

theorem LdWrite.detectorOk {i : Instr} {s : State} {l : Ld} (h : LdWrite s i l) (hs : detectorOk s.ld = true) :
    Machine.detectorOk l = true := by
  obtain ⟨hpeak, hstopped, havail⟩ := (detectorOk_iff s.ld).mp hs
  cases h with
  | keep => exact hs
  | start => exact (detectorOk_iff _).mpr ⟨fun _ => rfl, nofun, nofun⟩
  | stop => exact (detectorOk_iff _).mpr ⟨fun _ => rfl, fun _ => ⟨rfl, rfl⟩, nofun⟩
  | update now smp =>
    have hstored : Machine.detectorOk (s.ld.storeSample smp) = true :=
      (detectorOk_iff _).mpr ⟨hpeak, hstopped, havail⟩
    exact detectorOk_transition hstored
  | getlap => exact (detectorOk_iff _).mpr ⟨hpeak, hstopped, nofun⟩

/-- Settles O55. -/
theorem stepKeepsDetectorInvariants : Obligations.StepKeepsDetectorInvariants := by
  intro s t h hs
  refine step_keeps_units (P := fun _ l => detectorOk l = true) detectorOk_reset (fun i u t hi hu => ?_) h hs
  obtain ⟨_, _, hld, _⟩ := exec_writes hi
  exact hld.detectorOk hu

end Sys2Proof.Machine
end

section
/-! The bus between steps: who owns it (R73), where the command in flight will leave the receiver (R120 to R125), and the pins
at the levels `SEQ` names (R116 to R118). The moves of the sequencer are said once, and the statements about single moves and
about every step cite them. -/

namespace Sys2Proof.Machine

open Claims

/-! ### Ports and flights -/

section
variable {s t : State}

theorem Busy.flying_eq_none_iff (b : Busy) : b.flying = none ↔ ∀ f, b ≠ .running f := by
  cases b <;> simp [Busy.flying]

theorem State.busHeld_eq_false_iff (s : State) :
    s.busHeld = false ↔ (s.port s.cur.other).busy.flying = none := by
  rw [← Bool.not_eq_true, State.busHeld_iff, not_exists, Busy.flying_eq_none_iff]

/-- One bus owner, seen from either port. -/
theorem busOwnerOk_iff (p : Port) (s : State) :
    busOwnerOk s = true ↔ (s.port p).busy.flying = none ∨ (s.port p.other).busy.flying = none := by
  have hsym : busOwnerOk s = true ↔ s.p0.busy.flying = none ∨ s.p1.busy.flying = none := by
    simp [busOwnerOk]
  cases p with
  | p0 => exact hsym
  | p1 => exact hsym.trans or_comm

/-- With one port out of the bus, the flight is the other's. -/
theorem State.flight_eq (p : Port) (h : (s.port p.other).busy.flying = none) : s.flight = (s.port p).busy.flying := by
  cases p with
  | p0 =>
    change s.p1.busy.flying = none at h
    unfold State.flight
    rw [h]
    cases h0 : s.p0.busy.flying <;> exact h0.symm
  | p1 =>
    change s.p0.busy.flying = none at h
    unfold State.flight
    rw [h]
    rfl

theorem State.flight_congr (h : ∀ p, (t.port p).busy.flying = (s.port p).busy.flying) : t.flight = s.flight := by
  have h0 : t.p0.busy.flying = s.p0.busy.flying := h .p0
  have h1 : t.p1.busy.flying = s.p1.busy.flying := h .p1
  unfold State.flight
  rw [h0, h1]

theorem busOwnerOk_congr (h : ∀ p, (t.port p).busy.flying = (s.port p).busy.flying) : busOwnerOk t = busOwnerOk s := by
  have h0 : t.p0.busy.flying = s.p0.busy.flying := h .p0
  have h1 : t.p1.busy.flying = s.p1.busy.flying := h .p1
  unfold busOwnerOk
  rw [h0, h1]

theorem State.rxAtEnd_congr (hflight : t.flight = s.flight) (hrx : t.rx = s.rx) : t.rxAtEnd = s.rxAtEnd := by
  unfold State.rxAtEnd
  rw [hflight, hrx]

theorem State.rxAtEnd_of_flight_none (h : s.flight = none) : s.rxAtEnd = s.rx := by
  unfold State.rxAtEnd
  rw [h]

theorem busOk_iff (p : Port) (s : State) :
    busOk s = true ↔ busOwnerOk s = true ∧ waitingOk (s.port p).busy = true ∧ waitingOk (s.port p.other).busy = true ∧
      receiverOk s.rxAtEnd = true := by
  cases p with
  | p0 => simp [busOk, and_assoc, Port.other]
  | p1 => simp [busOk, and_assoc, Port.other, and_left_comm]

/-- A port enters its command as itself free, and nothing else of the ports changes. -/
theorem entered_flying {p : Port} (q : List Cmd) (h : (s.port p).busy.flying = none) (p' : Port) :
    ((entered p q s).port p').busy.flying = (s.port p').busy.flying := by
  have hsame : ((entered p q s).port p).busy.flying = (s.port p).busy.flying := by rw [entered_port, h]; rfl
  have hother : ((entered p q s).port p.other).busy.flying = (s.port p.other).busy.flying := by rw [entered_port_other]
  cases p <;> cases p' <;> assumption

/-- A whole command puts no flight on the bus and ends none. -/
theorem exec_flying {i : Instr} (h : exec i s = .next t) (hidle : (s.port s.cur).busy = .idle) (p : Port) :
    (t.port p).busy.flying = (s.port p).busy.flying := by
  rcases exec_cases h with ⟨_, rfl⟩ | ⟨_, _, e, _, rfl⟩ | hdone
  · have hsame : ((s.waitForBus i).port s.cur).busy.flying = (s.port s.cur).busy.flying := by
      rw [hidle, State.waitForBus_eq, State.port_setPort]; rfl
    have hother : ((s.waitForBus i).port s.cur.other).busy.flying = (s.port s.cur.other).busy.flying := by
      rw [State.waitForBus_eq, State.port_setPort_other]
    cases hc : s.cur <;> rw [hc] at hsame hother <;> cases p <;> assumption
  · cases p <;> rfl
  · rw [hdone.port_eq]

end

/-! ### An action of the flight -/

theorem act_ports (x : State × Flight) :
    (act x).1.p0 = x.1.p0 ∧ (act x).1.p1 = x.1.p1 ∧ (act x).1.cur = x.1.cur := by
  obtain ⟨h, _⟩ := act_frame x
  rw [h]
  exact ⟨rfl, rfl, rfl⟩

theorem act_port (x : State × Flight) (p : Port) : (act x).1.port p = x.1.port p :=
  State.port_congr _ _ (act_ports x).1 (act_ports x).2.1 p

section
variable (f : Flight) (s : State)

theorem advance_port_other : (advance f s).port s.cur.other = s.port s.cur.other := by
  by_cases h : f.todo = []
  · rw [advance_done h]; simp
  · rw [advance_act h, State.setBusy_eq, State.port_setPort_other, act_port]

variable {f s}

theorem advance_flying_done (h : f.todo = []) : ((advance f s).port s.cur).busy = .idle := by
  rw [advance_done h]; simp

theorem advance_flying_act (h : f.todo ≠ []) : ((advance f s).port s.cur).busy = .running (act (s, f)).2 := by
  rw [advance_act h]; simp

/-- The port that advances never waits, so only the other port can. -/
theorem advance_waitingOk : waitingOk ((advance f s).port s.cur).busy = true := by
  by_cases h : f.todo = []
  · rw [advance_flying_done h]; rfl
  · rw [advance_flying_act h]; rfl

theorem advance_flight (hother : (s.port s.cur.other).busy.flying = none) :
    (advance f s).flight = ((advance f s).port s.cur).busy.flying :=
  State.flight_eq s.cur (by rw [advance_port_other]; exact hother)

theorem advance_busOwnerOk (hother : (s.port s.cur.other).busy.flying = none) : busOwnerOk (advance f s) = true :=
  (busOwnerOk_iff s.cur _).mpr (.inr (by rw [advance_port_other]; exact hother))

/-- An advance does not change where the flight leaves the receiver (R120, R121, R125). -/
theorem advance_rxAtEnd (hother : (s.port s.cur.other).busy.flying = none) :
    (advance f s).rxAtEnd = f.todo.foldl BusOp.onRxd s.rx := by
  by_cases h : f.todo = []
  · have hflight : (advance f s).flight = none := by rw [advance_flight hother, advance_flying_done h]; rfl
    rw [State.rxAtEnd_of_flight_none hflight, advance_done h, h]; simp
  · have hflight : (advance f s).flight = some (act (s, f)).2 := by
      rw [advance_flight hother, advance_flying_act h]; rfl
    have hrx : (advance f s).rx = (act (s, f)).1.rx := by rw [advance_act h]; simp
    unfold State.rxAtEnd
    rw [hflight, hrx]
    exact act_onRxd (s, f)

end

/-! ### The receiver's invariants -/

theorem receiverOk_iff (r : Rxd) :
    receiverOk r = true ↔ (r.pwrDown = true ↔ r.curFreq = 1111) ∧ (r.retuned = true → admitted r.curFreq = true) := by
  rw [receiverOk, Bool.and_eq_true, beq_iff_eq, Bool.eq_iff_iff, beq_iff_eq, Bool.or_eq_true, Bool.not_eq_true',
    ← Bool.not_eq_true, ← imp_iff_not_or]
  rfl

/-- A tune to an admitted frequency leaves the receiver sound, whatever it was but for a retune pending (R120). -/
theorem receiverOk_tuned {f : Mhz} (now : Ms) (r : Rxd) (hf : admitted f = true) : receiverOk (r.tuned f now) = true := by
  unfold Rxd.tuned
  split
  case isTrue h => exact (receiverOk_iff _).mpr ⟨iff_of_true rfl h, fun _ => hf⟩
  case isFalse h => exact (receiverOk_iff _).mpr ⟨iff_of_false Bool.false_ne_true h, fun _ => hf⟩

theorem receiverOk_settle {r : Rxd} (now : Ms) (h : receiverOk r = true) :
    receiverOk (BusOp.onRxd r (.seg (.settle now))) = true := by
  obtain ⟨hdown, _⟩ := (receiverOk_iff r).mp h
  simp only [BusOp.onRxd]
  split
  · exact (receiverOk_iff _).mpr ⟨hdown, nofun⟩
  · exact h

theorem RxWrite.receiverOk {i : Instr} {s : State} {r : Rxd} (h : RxWrite s i r) (hs : receiverOk s.rx = true) :
    Machine.receiverOk r = true := by
  cases h with
  | keep => exact hs
  | init => exact (receiverOk_iff _).mpr ⟨iff_of_true rfl rfl, fun _ => (by decide : admitted 1111 = true)⟩
  | tune now _ hf => exact receiverOk_tuned now s.rx hf
  | hfc now _ hf =>
    refine receiverOk_settle now ?_
    simp only [BusOp.onRxd]
    split
    · exact receiverOk_tuned now s.rx hf
    · exact hs

/-- A write to the receiver needs the bus free (R73). -/
theorem RxWrite.eq_of_busHeld {i : Instr} {s : State} {r : Rxd} (h : RxWrite s i r) (hheld : s.busHeld = true) :
    r = s.rx := by
  cases h with
  | keep => rfl
  | init hfree => rw [hheld] at hfree; cases hfree
  | tune now hfree => rw [hheld] at hfree; cases hfree
  | hfc now hfree => rw [hheld] at hfree; cases hfree

/-! ### Every step keeps the bus and the receiver sound -/

section
variable {s t : State}

theorem State.flight_of_free (hidle : (s.port s.cur).busy = .idle) (hfree : s.busHeld = false) : s.flight = none := by
  rw [State.flight_eq s.cur (s.busHeld_eq_false_iff.mp hfree), hidle]; rfl

/-- A bus command with admitted operands waits while the bus is held, with no other effect (R73). -/
theorem exec_waitForBus {i : Instr} {ops : List BusOp} (hops : busProgram i = some ops) (hheld : s.busHeld = true) :
    exec i s = .next (s.waitForBus i) := by
  obtain ⟨hi, hwf⟩ := (exists_busProgram_iff i).mp ⟨ops, hops⟩
  cases i with
  | rxInit => simp [exec, execRxInit, busCommand, hheld]
  | rxSetfreq f now => simp [exec, execRxSetfreq, withFreq, busCommand, hheld, show admitted f = true from hwf]
  | rxHfc f now => simp [exec, execRxHfc, withFreq, busCommand, hheld, show admitted f = true from hwf]
  | _ => cases hi

theorem exec_busOk {i : Instr} (h : exec i s = .next t) (hidle : (s.port s.cur).busy = .idle) (hs : busOk s = true) :
    busOk t = true := by
  obtain ⟨howner, hw, hw', hrx⟩ := (busOk_iff s.cur s).mp hs
  have hflying := exec_flying h hidle
  have howner' : busOwnerOk t = true := (busOwnerOk_congr hflying).trans howner
  have hend : receiverOk t.rxAtEnd = true := by
    obtain ⟨hwrite, _⟩ := exec_writes h
    cases hheld : s.busHeld with
    | true => rw [State.rxAtEnd_congr (State.flight_congr hflying) (hwrite.eq_of_busHeld hheld)]; exact hrx
    | false =>
      have hflight := State.flight_of_free hidle hheld
      rw [State.rxAtEnd_of_flight_none hflight] at hrx
      rw [State.rxAtEnd_of_flight_none ((State.flight_congr hflying).trans hflight)]
      exact hwrite.receiverOk hrx
  refine (busOk_iff s.cur t).mpr ⟨howner', ?_, ?_, hend⟩
  · rcases exec_cases h with ⟨⟨ops, hops⟩, rfl⟩ | ⟨_, _, e, _, rfl⟩ | hdone
    · rw [State.waitForBus_eq, State.port_setPort]
      exact Option.isSome_iff_exists.mpr ⟨ops, hops⟩
    · exact hw
    · rw [hdone.port_eq]; exact hw
  · rcases exec_cases h with ⟨_, rfl⟩ | ⟨_, _, e, _, rfl⟩ | hdone
    · rw [State.waitForBus_eq, State.port_setPort_other]; exact hw'
    · exact hw'
    · rw [hdone.port_eq]; exact hw'

theorem advance_busOk {f : Flight} (hother : (s.port s.cur.other).busy.flying = none)
    (hw : waitingOk (s.port s.cur.other).busy = true) (hrx : receiverOk (f.todo.foldl BusOp.onRxd s.rx) = true) :
    busOk (advance f s) = true := by
  refine (busOk_iff s.cur _).mpr ⟨advance_busOwnerOk hother, advance_waitingOk, ?_, ?_⟩
  · rw [advance_port_other]; exact hw
  · rw [advance_rxAtEnd hother]; exact hrx

theorem entered_busOk {p : Port} (q : List Cmd) (hp : (s.port p).busy.flying = none) (hs : busOk s = true) :
    busOk (entered p q s) = true := by
  obtain ⟨howner, _, hw', hrx⟩ := (busOk_iff p s).mp hs
  have hflying := entered_flying q hp
  have hend : (entered p q s).rxAtEnd = s.rxAtEnd :=
    State.rxAtEnd_congr (State.flight_congr hflying) (by simp [entered])
  refine (busOk_iff p _).mpr ⟨(busOwnerOk_congr hflying).trans howner, ?_, ?_, ?_⟩
  · rw [entered_port]; rfl
  · rw [entered_port_other]; exact hw'
  · rw [hend]; exact hrx

/-- A bus command that starts on a free bus: its whole program keeps the receiver sound. -/
theorem advance_start_busOk {i : Instr} {ops : List BusOp} (hops : busProgram i = some ops)
    (hidle : (s.port s.cur).busy = .idle) (hfree : s.busHeld = false) (hs : busOk s = true) :
    busOk (advance (Flight.start ops) s) = true := by
  obtain ⟨_, _, hw', hrx⟩ := (busOk_iff s.cur s).mp hs
  rw [State.rxAtEnd_of_flight_none (State.flight_of_free hidle hfree)] at hrx
  exact advance_busOk (s.busHeld_eq_false_iff.mp hfree) hw' ((rxWrite_of_busProgram hops hfree).receiverOk hrx)

theorem runPort_busOk {whole : Bool} {p : Port} (h : runPort whole p s = .next t) (hs : busOk s = true) :
    busOk t = true := by
  obtain ⟨howner, _, hw', hrx⟩ := (busOk_iff p s).mp hs
  rcases runPort_cases h with rfl | ⟨f, hf, rfl⟩ | ⟨hp, q, hcase⟩
  · exact hs
  · have hother : (s.port p.other).busy.flying = none :=
      ((busOwnerOk_iff p s).mp howner).resolve_left (by rw [hf]; exact Option.some_ne_none f)
    have hend : s.rxAtEnd = f.todo.foldl BusOp.onRxd s.rx := by
      unfold State.rxAtEnd
      rw [State.flight_eq p hother, hf]; rfl
    refine advance_busOk (s := s.setCur p) ?_ ?_ ?_
    · rw [State.setCur_cur, State.port_setCur]; exact hother
    · rw [State.setCur_cur, State.port_setCur]; exact hw'
    · rw [State.setCur_rx, ← hend]; exact hrx
  · have hu := entered_busOk q hp hs
    have hidle : ((entered p q s).port (entered p q s).cur).busy = .idle := by rw [entered_cur, entered_port]
    rcases hcase with ⟨i, hi⟩ | ⟨i, ops, hops, ⟨hheld, rfl⟩ | ⟨hfree, rfl⟩⟩ | ⟨st, rfl⟩
    · exact exec_busOk hi hidle hu
    · exact exec_busOk (exec_waitForBus hops hheld) hidle hu
    · exact advance_start_busOk hops hidle hfree hu
    · exact hu

/-- Settles O56. -/
theorem stepKeepsBusAndReceiver : Obligations.StepKeepsBusAndReceiver := by
  intro s t h hs
  rcases step_cases h with ⟨r, rfl⟩ | ⟨r, rfl⟩ | ⟨r, whole, p, _, hturn⟩
  · exact hs
  · exact (busOk_of_idle rfl rfl).trans receiverOk_reset
  · exact runPort_busOk hturn hs

end

end Sys2Proof.Machine
end

section
/-! The pins under the sequencer (R21, R26, R116 to R118): one equation for each move of a frame, the levels each move leaves,
and that every step keeps the pins where `SEQ` says; then each segment as one action (R71). -/

namespace Sys2Proof.Machine

open Claims

/-! ### The moves of a frame -/

section
variable {r : FrameReq} {rest : List BusOp} {f : Flight} {s : State}

theorem driveFrame_idle (h : s.seq = none) :
    driveFrame r rest f s =
      ((s.setPins (cellPins r 0 { s.pins with sel := Config.selActive })).setSeq (some ⟨f.frames, 0, .setup⟩),
        { f with rb := 0 }) := by
  simp only [driveFrame, h]

theorem driveFrame_setup {n : Nat} {b : Fin 25} (h : s.seq = some ⟨n, b, .setup⟩) :
    driveFrame r rest f s =
      (((s.wait 1).setPins { s.pins with clk := true }).setSeq (some ⟨n, b, .high⟩), f) := by
  simp only [driveFrame, h]

theorem driveFrame_high {n : Nat} {b : Fin 25} (h : s.seq = some ⟨n, b, .high⟩) :
    driveFrame r rest f s =
      (((s.wait 1).setPins { s.pins with clk := false }).setSeq (some ⟨n, b, .low⟩),
        { f with rb := sampleBit r b s.env.nextRead f.rb }) := by
  simp only [driveFrame, h]

theorem driveFrame_low {n : Nat} {b b' : Fin 25} (hb : b'.val = b.val + 1) (h : s.seq = some ⟨n, b, .low⟩) :
    driveFrame r rest f s =
      (((s.wait 1).setPins (cellPins r b' s.pins)).setSeq (some ⟨n, b', .setup⟩), f) := by
  have hlt : b.val + 1 < 25 := hb ▸ b'.isLt
  have e : (⟨b.val + 1, hlt⟩ : Fin 25) = b' := Fin.ext hb.symm
  simp only [driveFrame, h, dif_pos hlt, e]

theorem driveFrame_last {n : Nat} (h : s.seq = some ⟨n, 24, .low⟩) :
    driveFrame r rest f s =
      (endFrame r f.rb ((s.wait 1).setSeq none), { f with todo := rest, frames := f.frames + 1 }) := by
  simp only [driveFrame, h]
  rfl

theorem endFrame_eq (rb : BusData) :
    (endFrame r rb s).seq = s.seq ∧ (endFrame r rb s).busWaits = s.busWaits ∧
    (endFrame r rb s).trace = s.trace ++ [.frame (r.sent rb)] := by
  cases r <;> exact ⟨rfl, rfl, rfl⟩

/-- The cell after `b`, or `b` is the last one. -/
theorem next_cell (b : Fin 25) : (∃ b' : Fin 25, b'.val = b.val + 1) ∨ b = 24 := by
  by_cases h : b.val + 1 < 25
  · exact .inl ⟨⟨b.val + 1, h⟩, rfl⟩
  · exact .inr (Fin.ext (by change b.val = 24; omega))

end

/-! ### The levels each move leaves -/

section
variable (r : FrameReq)

theorem cellPins_select : cellPins r 0 { Pins.idleLevels with sel := Config.selActive } = pinsAt r 0 .setup := by
  cases r <;> rfl

theorem pinsAt_setup_clock (b : Fin 25) : { pinsAt r b .setup with clk := true } = pinsAt r b .high := by
  cases r <;> rfl

theorem pinsAt_high_clock (b : Fin 25) : { pinsAt r b .high with clk := false } = pinsAt r b .low := by
  cases r <;> rfl

/-- From the R/W cell on a read frame's block drives 0, the level DATA keeps while it is released (R118; log 12). -/
theorem read_cell_eq_false (a : BusAddr) {k : Nat} (hk : 4 ≤ k) : (BusFrame.read a 0).word.getLsbD k = false := by
  rw [BusFrame.read_getLsbD, if_neg (by omega)]
  split
  · rfl
  · exact BitVec.getLsbD_zero

theorem cellPins_next {b b' : Fin 25} (hb : b'.val = b.val + 1) :
    cellPins r b' (pinsAt r b .low) = pinsAt r b' .setup := by
  cases r with
  | write a d => rfl
  | read a =>
    by_cases h : b'.val < 5
    · have hdriven : decide (b.val < 5) = true := decide_eq_true (by omega)
      simp only [cellPins, pinsAt, h, hdriven, if_true, decide_true]
      rfl
    · simp only [cellPins, pinsAt, h, if_false, decide_false, read_cell_eq_false a (k := b.val) (by omega),
        read_cell_eq_false a (k := b'.val) (by omega)]
      rfl

theorem endFrame_pins {s : State} (rb : BusData) (h : s.pins = pinsAt r 24 .low) :
    (endFrame r rb s).pins = Pins.idleLevels := by
  cases r with
  | write a d =>
    change s.pins.endWrite = _
    rw [h]; rfl
  | read a =>
    change s.pins.endRead = _
    rw [h]; rfl

end

/-! ### One move of the sequencer -/

theorem advance_frame_head {f : Flight} {r : FrameReq} {rest : List BusOp} (h : f.todo = .frame r :: rest) (s : State) :
    advance f s = (driveFrame r rest f s).1.setBusy s.cur (.running (driveFrame r rest f s).2) := by
  simp only [advance, h]

/-- Settles O31: the five moves, each with the levels it leaves. -/
theorem sequencerDrivesEachPhase : Obligations.SequencerDrivesEachPhase := by
  intro s f r rest htodo t
  have ht : t = (driveFrame r rest f s).1.setBusy s.cur (.running (driveFrame r rest f s).2) :=
    advance_frame_head htodo s
  refine ⟨fun hseq hpins => ?_, fun n b hseq hpins => ?_, fun n b hseq hpins => ?_, fun n b b' hb hseq hpins => ?_,
    fun n hseq hpins => ?_⟩
  · rw [ht, driveFrame_idle hseq]
    refine ⟨by simp, ?_, by simp⟩
    simp only [State.setBusy_eq, State.setPort_pins, State.setSeq_pins, State.setPins_pins, hpins]
    exact cellPins_select r
  · rw [ht, driveFrame_setup hseq]
    refine ⟨by simp, ?_, by simp, by simp⟩
    simp only [State.setBusy_eq, State.setPort_pins, State.setSeq_pins, State.setPins_pins, hpins]
    exact pinsAt_setup_clock r b
  · rw [ht, driveFrame_high hseq]
    refine ⟨by simp, ?_, by simp, by simp⟩
    simp only [State.setBusy_eq, State.setPort_pins, State.setSeq_pins, State.setPins_pins, hpins]
    exact pinsAt_high_clock r b
  · rw [ht, driveFrame_low hb hseq]
    refine ⟨by simp, ?_, by simp, by simp⟩
    simp only [State.setBusy_eq, State.setPort_pins, State.setSeq_pins, State.setPins_pins, hpins]
    exact cellPins_next r hb
  · obtain ⟨hseq', hwaits, htrace⟩ := endFrame_eq (r := r) (s := (s.wait 1).setSeq none) f.rb
    rw [ht, driveFrame_last hseq]
    simp only [State.setBusy_eq, State.setPort_seq, State.setPort_pins, State.setPort_busWaits, State.setPort_trace,
      hseq', htrace]
    refine ⟨rfl, endFrame_pins r f.rb hpins, hwaits, ?_, by rw [State.port_setPort]⟩
    cases r <;> rfl

/-! ### Every step keeps the pins where `SEQ` says -/

/-- The pins are idle when `SEQ` is, and else at the phase `SEQ` names in the frame at the head of the flight: `pinsOk` with
the flight beside it. -/
def PinsFollow (seq : Option SeqPos) (pins : Pins) (flight : Option Flight) : Prop :=
  match seq with
  | none => pins = Pins.idleLevels
  | some q => ∃ f r rest, flight = some f ∧ f.todo = .frame r :: rest ∧ q.frame = f.frames ∧ pins = pinsAt r q.bit q.phase

theorem pinsOk_iff (s : State) : pinsOk s = true ↔ PinsFollow s.seq s.pins s.flight := by
  unfold pinsOk PinsFollow
  cases hseq : s.seq with
  | none => simp
  | some q =>
    cases hflight : s.flight with
    | none => simp
    | some f =>
      rcases htodo : f.todo with _ | ⟨op, rest⟩
      · simp [htodo]
      · cases op <;> simp [htodo]

/-- An idle `SEQ` asks nothing of the flight. -/
theorem PinsFollow.of_idle {pins : Pins} {fl : Option Flight} (h : pins = Pins.idleLevels) : PinsFollow none pins fl := h

/-- `SEQ` stands in a frame only while the frame heads the flight. -/
theorem PinsFollow.idle_of_not_frame {seq : Option SeqPos} {pins : Pins} {fl : Option Flight}
    (h : PinsFollow seq pins fl) (hno : ∀ f r rest, fl = some f → f.todo ≠ .frame r :: rest) :
    seq = none ∧ pins = Pins.idleLevels := by
  cases seq with
  | none => exact ⟨rfl, h⟩
  | some q =>
    obtain ⟨f, r, rest, hf, htodo, _⟩ := h
    exact absurd htodo (hno f r rest hf)

/-- A segment leaves `SEQ` alone and the pins as they are or idle (R121). -/
theorem runSegment_pins (g : Segment) (f : Flight) (s : State) :
    (runSegment g f s).1.seq = s.seq ∧
      ((runSegment g f s).1.pins = s.pins ∨ (runSegment g f s).1.pins = Pins.idleLevels) := by
  cases g with
  | idle => exact ⟨rfl, .inr rfl⟩
  | change f now => simp only [runSegment]; split <;> exact ⟨rfl, .inl rfl⟩
  | settle now =>
    simp only [runSegment]
    split
    · split <;> exact ⟨rfl, .inl rfl⟩
    · exact ⟨rfl, .inl rfl⟩
  | power d => exact ⟨rfl, .inl rfl⟩
  | tune f now => exact ⟨rfl, .inl rfl⟩
  | arm now => exact ⟨rfl, .inl rfl⟩
  | compare => exact ⟨rfl, .inl rfl⟩

theorem driveFrame_pinsFollow {r : FrameReq} {rest : List BusOp} {f : Flight} {s : State} (htodo : f.todo = .frame r :: rest)
    (h : PinsFollow s.seq s.pins (some f)) :
    PinsFollow (driveFrame r rest f s).1.seq (driveFrame r rest f s).1.pins (some (driveFrame r rest f s).2) := by
  rcases hseq : s.seq with _ | ⟨n, b, ph⟩
  · rw [hseq] at h
    rw [driveFrame_idle hseq, show s.pins = Pins.idleLevels from h]
    exact ⟨_, r, rest, rfl, htodo, rfl, cellPins_select r⟩
  · rw [hseq] at h
    obtain ⟨g, r', rest', hg, htodo', hframe, hpins⟩ := h
    cases hg
    rw [htodo] at htodo'
    cases htodo'
    cases ph with
    | setup =>
      rw [driveFrame_setup hseq, hpins]
      exact ⟨_, r, rest, rfl, htodo, hframe, pinsAt_setup_clock r b⟩
    | high =>
      rw [driveFrame_high hseq, hpins]
      exact ⟨_, r, rest, rfl, htodo, hframe, pinsAt_high_clock r b⟩
    | low =>
      rcases next_cell b with ⟨b', hb⟩ | rfl
      · rw [driveFrame_low hb hseq, hpins]
        exact ⟨_, r, rest, rfl, htodo, hframe, cellPins_next r hb⟩
      · obtain ⟨hseq', _⟩ := endFrame_eq (r := r) (s := (s.wait 1).setSeq none) f.rb
        rw [driveFrame_last hseq, hseq']
        exact endFrame_pins r f.rb hpins

theorem act_pinsFollow {x : State × Flight} (h : PinsFollow x.1.seq x.1.pins (some x.2)) :
    PinsFollow (act x).1.seq (act x).1.pins (some (act x).2) := by
  unfold act
  split
  · exact h
  · rename_i g rest htodo
    obtain ⟨hseq, hpins⟩ := h.idle_of_not_frame (by rintro f r rest' hf; cases hf; rw [htodo]; simp)
    obtain ⟨hseq', hpins'⟩ := runSegment_pins g { x.2 with todo := rest } x.1
    rw [hseq', hseq]
    exact PinsFollow.of_idle (hpins'.elim (·.trans hpins) id)
  · rename_i htodo
    exact driveFrame_pinsFollow htodo h

section
variable {s t : State}

theorem advance_pinsOk {f : Flight} (hother : (s.port s.cur.other).busy.flying = none)
    (h : PinsFollow s.seq s.pins (some f)) : pinsOk (advance f s) = true := by
  rw [pinsOk_iff, advance_flight hother]
  by_cases hdone : f.todo = []
  · obtain ⟨hseq, hpins⟩ := h.idle_of_not_frame (by rintro g r rest hg; cases hg; rw [hdone]; simp)
    rw [advance_done hdone]
    simp only [State.respond_eq, State.emit_seq, State.emit_pins, State.setBusy_eq, State.setPort_seq, State.setPort_pins,
      hseq, hpins]
    exact PinsFollow.of_idle rfl
  · rw [advance_flying_act hdone, advance_act hdone]
    simp only [State.setBusy_eq, State.setPort_seq, State.setPort_pins]
    exact act_pinsFollow (x := (s, f)) h

theorem exec_pinsOk {i : Instr} (h : exec i s = .next t) (hidle : (s.port s.cur).busy = .idle) (hs : pinsOk s = true) :
    pinsOk t = true := by
  have hflight := State.flight_congr (exec_flying h hidle)
  rw [pinsOk_iff] at hs ⊢
  rw [hflight]
  rcases exec_cases h with ⟨_, rfl⟩ | ⟨_, _, e, _, rfl⟩ | hdone
  · simpa using hs
  · exact PinsFollow.of_idle rfl
  · rw [hdone.seq]
    rcases hdone.pins with hsame | ⟨hfree, hidled⟩
    · rw [hsame]; exact hs
    · have hnone := State.flight_of_free hidle hfree
      obtain ⟨hseq, hpins⟩ := hs.idle_of_not_frame (by rintro f r rest hf; rw [hnone] at hf; cases hf)
      rw [hseq]
      exact PinsFollow.of_idle (hidled hpins)

theorem runPort_pinsOk {whole : Bool} {p : Port} (h : runPort whole p s = .next t) (howner : busOwnerOk s = true)
    (hs : pinsOk s = true) : busOwnerOk t = true ∧ pinsOk t = true := by
  rcases runPort_cases h with rfl | ⟨f, hf, rfl⟩ | ⟨hp, q, hcase⟩
  · exact ⟨howner, hs⟩
  · have hother : (s.port p.other).busy.flying = none :=
      ((busOwnerOk_iff p s).mp howner).resolve_left (by rw [hf]; exact Option.some_ne_none f)
    have hfollow : PinsFollow s.seq s.pins (some f) := by
      have hflight : s.flight = some f := by rw [State.flight_eq p hother, hf]; rfl
      rw [← hflight]; exact (pinsOk_iff s).mp hs
    have hother' : ((s.setCur p).port (s.setCur p).cur.other).busy.flying = none := by
      rw [State.setCur_cur, State.port_setCur]; exact hother
    exact ⟨advance_busOwnerOk hother', advance_pinsOk hother' hfollow⟩
  · have hflying := entered_flying q hp
    have howner' : busOwnerOk (entered p q s) = true := (busOwnerOk_congr hflying).trans howner
    have hs' : pinsOk (entered p q s) = true := by
      rw [pinsOk_iff] at hs ⊢
      rw [State.flight_congr hflying]
      simpa [entered] using hs
    have hidle : ((entered p q s).port (entered p q s).cur).busy = .idle := by rw [entered_cur, entered_port]
    rcases hcase with ⟨i, hi⟩ | ⟨i, ops, hops, ⟨hheld, rfl⟩ | ⟨hfree, rfl⟩⟩ | ⟨st, rfl⟩
    · exact ⟨(busOwnerOk_congr (exec_flying hi hidle)).trans howner', exec_pinsOk hi hidle hs'⟩
    · have hwait := exec_waitForBus hops hheld
      exact ⟨(busOwnerOk_congr (exec_flying hwait hidle)).trans howner', exec_pinsOk hwait hidle hs'⟩
    · have hother := (State.busHeld_eq_false_iff _).mp hfree
      have hnone := State.flight_of_free hidle hfree
      obtain ⟨hseq, hpins⟩ := ((pinsOk_iff _).mp hs').idle_of_not_frame
        (by rintro f r rest hf; rw [hnone] at hf; cases hf)
      have hfollow : PinsFollow (entered p q s).seq (entered p q s).pins (some (Flight.start ops)) := by
        rw [hseq]; exact PinsFollow.of_idle hpins
      exact ⟨advance_busOwnerOk hother, advance_pinsOk hother hfollow⟩
    · exact ⟨howner', hs'⟩

/-- Settles O57. -/
theorem stepKeepsPinsOnSequencer : Obligations.StepKeepsPinsOnSequencer := by
  intro s t h howner hs
  rcases step_cases h with ⟨r, rfl⟩ | ⟨r, rfl⟩ | ⟨r, whole, p, _, hturn⟩
  · exact ⟨howner, hs⟩
  · exact ⟨busOwnerOk_of_idle rfl, (pinsOk_of_seq_none rfl).trans (beq_self_eq_true _)⟩
  · exact runPort_pinsOk hturn howner hs

end

/-! ### Each segment is one action -/

/-- A move of the sequencer keeps the report, and the frame at the head of the list until `SEQ` is idle again. -/
theorem driveFrame_flight (r : FrameReq) (rest : List BusOp) (f : Flight) (s : State) :
    (driveFrame r rest f s).2.rep = f.rep ∧
    ((driveFrame r rest f s).1.seq ≠ none ∧ (driveFrame r rest f s).2.todo = f.todo ∨
      (driveFrame r rest f s).1.seq = none ∧ (driveFrame r rest f s).2.todo = rest) := by
  rcases hseq : s.seq with _ | ⟨n, b, ph⟩
  · rw [driveFrame_idle hseq]; exact ⟨rfl, .inl ⟨by simp, rfl⟩⟩
  · cases ph with
    | setup => rw [driveFrame_setup hseq]; exact ⟨rfl, .inl ⟨by simp, rfl⟩⟩
    | high => rw [driveFrame_high hseq]; exact ⟨rfl, .inl ⟨by simp, rfl⟩⟩
    | low =>
      rcases next_cell b with ⟨b', hb⟩ | rfl
      · rw [driveFrame_low hb hseq]; exact ⟨rfl, .inl ⟨by simp, rfl⟩⟩
      · obtain ⟨hseq', _⟩ := endFrame_eq (r := r) (s := (s.wait 1).setSeq none) f.rb
        rw [driveFrame_last hseq, hseq']
        exact ⟨rfl, .inr ⟨rfl, rfl⟩⟩

theorem advance_seg {f : Flight} {g : Segment} {rest : List BusOp} (h : f.todo = .seg g :: rest) (s : State) :
    advance f s = (runSegment g { f with todo := rest } s).1.setBusy s.cur
      (.running (runSegment g { f with todo := rest } s).2) := by
  simp only [advance, h]

/-- What a phase of a frame leaves alone (R71). -/
theorem advance_phase_frame {f : Flight} {r : FrameReq} {rest : List BusOp} (h : f.todo = .frame r :: rest) (s : State) :
    (advance f s).rx = s.rx ∧ ((advance f s).port s.cur).queue = (s.port s.cur).queue := by
  have hne : f.todo ≠ [] := by rw [h]; exact List.cons_ne_nil _ _
  obtain ⟨hrx, _⟩ := act_phase (x := (s, f)) h
  rw [advance_act hne]
  simp only [State.setBusy_eq, State.setPort_rx, State.port_setPort, act_port, hrx, and_self]

/-- Settles O58: a frame's phase by its frame lemmas, a segment by its one equation, the guards of H1 and H2 as `RX_HFC` has
them. -/
theorem segmentActions : Obligations.SegmentActions := by
  refine ⟨fun s fl r rest htodo => ?_, fun s fl rest => ?_, rfl, fun f now hf => ?_⟩
  · intro t
    obtain ⟨hkf, hld, hcfg, hfaulted⟩ := advance_frame fl s
    obtain ⟨hrx, hqueue⟩ := advance_phase_frame htodo s
    obtain ⟨hrep, hflight⟩ := driveFrame_flight r rest fl s
    have ht : t = (driveFrame r rest fl s).1.setBusy s.cur (.running (driveFrame r rest fl s).2) :=
      advance_frame_head htodo s
    have hseq : t.seq = (driveFrame r rest fl s).1.seq := by rw [ht]; simp
    refine ⟨hrx, hkf, hld, hcfg, hfaulted, advance_port_other fl s, hqueue, (driveFrame r rest fl s).2, ?_, hrep, ?_, ?_⟩
    · rw [ht]; simp
    · intro hbusy
      rw [hseq] at hbusy
      exact (hflight.resolve_right fun h => hbusy h.1).2
    · intro hidle
      rw [hseq] at hidle
      exact (hflight.resolve_left fun h => h.1 hidle).2
  · intro does
    have hzero : fl.rep ||| 0 = fl.rep := BitVec.or_zero
    refine ⟨fun h => ?_, fun f now h => ?_, fun down h => ?_, fun now h => ?_, fun f now hne hquiet h => ?_,
      fun f now hno h => ?_, fun now hno h => ?_, fun now hret hold h => ?_, fun h => ?_, fun h => ?_⟩
    · rw [advance_seg h]; rfl
    · rw [advance_seg h, hzero]; rfl
    · rw [advance_seg h, hzero]; rfl
    · rw [advance_seg h, hzero]; rfl
    · have hdue : retuneDue f now s.rx = true := retuneDue_iff.mpr ⟨hne, hquiet⟩
      rw [advance_seg h]
      simp only [runSegment, hdue, if_true]
      rfl
    · have hdue : ¬ retuneDue f now s.rx = true := fun hd => by
        obtain ⟨hne, hquiet⟩ := retuneDue_iff.mp hd
        exact hno.elim hne (by omega)
      rw [advance_seg h, hzero]
      simp only [runSegment, hdue]
      rfl
    · have hdue : ¬ settleDue now s.rx = true := fun hd => by
        obtain ⟨hret, hold⟩ := settleDue_iff.mp hd
        exact hno.elim (by simp [hret]) (by omega)
      rw [advance_seg h, hzero]
      simp only [runSegment, hdue]
      rfl
    · have hdue : settleDue now s.rx = true := settleDue_iff.mpr ⟨hret, hold⟩
      rw [advance_seg h]
      simp only [runSegment, hdue, if_true]
      cases hver : verifies s with
      | true => rw [show (s.env.verifyReadback && !s.rx.pwrDown) = true from hver]; rfl
      | false => rw [show (s.env.verifyReadback && !s.rx.pwrDown) = false from hver]; rfl
    · rw [advance_seg h]; rfl
    · rw [advance_done h]; simp
  · exact ⟨if_pos hf, if_pos hf⟩

end Sys2Proof.Machine
end

section
/-! The register encoder on the tuning range (R112, R113), and the exact results of the bus commands run whole (R120 to R127):
each is `setFreqCore` on one path, or the settle step, between the guards of `RX_HFC`. -/

namespace Sys2Proof.Machine

open Claims

/-! ### The encoder -/

/-- Settles O19: the value is `(f - 479) / 2` with its low five bits and the rest spread apart, so it follows the order of the
frequencies. -/
theorem registerEncoderProperties : Obligations.RegisterEncoderProperties := by
  refine ⟨fun f g hlo hhi hnext heven => BitVec.eq_of_toNat_eq ?_, fun f g hlo hfg hhi => ?_, by decide⟩
  · rw [encodeFreq_toNat hlo (by omega), encodeFreq_toNat (by omega) hhi, hnext]
    have hpair : (f.toNat + 1 - 479) / 2 = (f.toNat - 479) / 2 := by omega
    rw [hpair]
  · rw [encodeFreq_toNat hlo (by omega), encodeFreq_toNat (by omega) hhi]
    omega

/-! ### The commands run whole -/

section
variable {f : Mhz} {now : Ms} {s : State}

theorem execRxSetfreq_free (hfree : s.busHeld = false) (hf : admitted f = true) :
    exec (.rxSetfreq f now) s = .next ((setFreqCore f now s).respond .ok 0) := by
  simp [exec, execRxSetfreq, withFreq, busCommand, hfree, hf]

theorem admitted_of_mem_range (hlo : 479 ≤ f.toNat) (hhi : f.toNat ≤ 33246) : admitted f = true :=
  (admitted_iff f).mpr (.inr ⟨hlo, hhi⟩)

theorem not_retuneDue_iff : retuneDue f now s.rx = false ↔ f = s.rx.curFreq ∨ (now - s.rx.retuneTs).toNat < 30 := by
  rw [← Bool.not_eq_true, retuneDue_iff, not_and_or, not_not, not_le]

theorem not_settleDue_iff : settleDue now s.rx = false ↔ s.rx.retuned = false ∨ (now - s.rx.retuneTs).toNat < 35 := by
  rw [← Bool.not_eq_true, settleDue_iff, not_and_or, Bool.not_eq_true, not_le]

theorem hfcChange_due (h : retuneDue f now s.rx = true) : hfcChange f now s = setFreqCore f now s := if_pos h

theorem hfcChange_not_due (h : retuneDue f now s.rx = false) : hfcChange f now s = s :=
  if_neg (Bool.not_eq_true _ ▸ h)

theorem hfcSettle_not_due (h : settleDue now s.rx = false) : hfcSettle now s = s :=
  if_neg (Bool.not_eq_true _ ▸ h)

theorem settleReport_not_due (h : settleDue now s.rx = false) : settleReport now s = 0 :=
  if_neg (Bool.not_eq_true _ ▸ h)

/-- H2 where it does not verify (R125). -/
theorem hfcSettle_unverified (hdue : settleDue now s.rx = true) (hver : verifies s = false) :
    hfcSettle now s = { s with rx := { s.rx with retuned := false } } ∧ settleReport now s = 0x2 := by
  simp only [hfcSettle, settleReport, hdue, hver]
  exact ⟨rfl, rfl⟩

/-- H2 and H3 where they verify (R125, R126). -/
theorem hfcSettle_verified (hdue : settleDue now s.rx = true) (hver : verifies s = true) :
    hfcSettle now s = { s with
      rx := { s.rx with retuned := false }
      pins := s.pins.endRead
      env := { s.env with readIn := s.env.readIn.tail, readDraws := s.env.readDraws + 1 }
      trace := s.trace ++ [.frame (.read 0x1 s.env.nextRead)]
      busWaits := s.busWaits + 75 } ∧
    settleReport now s =
      repSettled ||| repVerified s.env.nextRead ||| repMismatch s.env.nextRead (tuneData s.rx.curFreq) := by
  simp only [hfcSettle, settleReport, hdue, hver]
  exact ⟨rfl, rfl⟩

end

/-- Settles O21. -/
theorem rxInitResult : Obligations.RxInitResult := by
  intro s hfree
  have hrun : exec .rxInit s = .next ((initCore s).respond .ok 0) := by
    simp [exec, execRxInit, busCommand, hfree]
  rw [hrun, initCore, setFreqCore_powerDown, State.busWrites_wake]
  simp only [State.respond_eq, State.emit, State.setPwrDown, State.setRx, State.idlePins, State.setPins, List.append_assoc]
  rfl

/-- Settles O22. -/
theorem rxSetfreqTunes : Obligations.RxSetfreqTunes := by
  intro f now s hfree hlo hhi hf
  rw [execRxSetfreq_free hfree (admitted_of_mem_range hlo hhi), setFreqCore_tune hf]
  simp only [State.respond_eq, State.emit, List.append_assoc]
  rfl

/-- Settles O23. -/
theorem rxSetfreqPowersDown : Obligations.RxSetfreqPowersDown := by
  intro now s hfree
  rw [execRxSetfreq_free hfree (by decide)]
  change Host.Outcome.next (State.respond .ok 0 (setFreqCore Config.powerDownFreq now s)) = _
  rw [setFreqCore_powerDown]
  simp only [State.respond_eq, State.emit, List.append_assoc]
  rfl

/-- Settles O24: the change arms `RETUNE_TS` with `now`, so no time has passed at the settle test. -/
theorem rxHfcRetunes : Obligations.RxHfcRetunes := by
  intro f now s hfree hlo hhi hf hchange hquiet
  have hdue : retuneDue f now s.rx = true := retuneDue_iff.mpr ⟨hchange, hquiet⟩
  have hrx : (setFreqCore f now s).rx.retuneTs = now := by rw [setFreqCore_tune hf]
  have hfresh : settleDue now (setFreqCore f now s).rx = false := settleDue_fresh now _ hrx
  have hreport : hfcReport f now s = 0x1 := by
    rw [hfcReport, hfcChange_due hdue, settleReport_not_due hfresh, hdue]; rfl
  rw [execRxHfc_free hfree (admitted_of_mem_range hlo hhi), hreport, hfcChange_due hdue, hfcSettle_not_due hfresh,
    setFreqCore_tune hf]
  simp only [State.respond_eq, State.emit, List.append_assoc]
  rfl

/-- Settles O25: the change leaves `RETUNED` and `RETUNE_TS` to the settle test, and a module that is down is not read back. -/
theorem rxHfcPowersDown : Obligations.RxHfcPowersDown := by
  intro now s hfree hchange hquiet settles
  have hdue : retuneDue 1111 now s.rx = true := retuneDue_iff.mpr ⟨hchange, hquiet⟩
  have hcore : hfcChange 1111 now s = { s with
      rx := { s.rx with curFreq := 1111, pwrDown := true }
      pins := afterWrite s.pins
      trace := s.trace ++ [.frame (.write 0xA 0xFFFFF)]
      busWaits := s.busWaits + 75 } := (hfcChange_due hdue).trans (setFreqCore_powerDown now s)
  have hdown : verifies (hfcChange 1111 now s) = false := by rw [hcore]; exact Bool.and_false _
  have hsettles : settleDue now (hfcChange 1111 now s).rx = settles := by rw [hcore]; rfl
  rw [execRxHfc_free hfree (by decide), hfcReport, hdue]
  cases hs : settles with
  | true =>
    obtain ⟨hstate, hreport⟩ := hfcSettle_unverified (hsettles.trans hs) hdown
    rw [hstate, hreport, hcore]
    simp only [State.respond_eq, State.emit, List.append_assoc, Bool.not_true, Bool.and_false]
    rfl
  | false =>
    rw [hfcSettle_not_due (hsettles.trans hs), settleReport_not_due (hsettles.trans hs), hcore]
    simp only [State.respond_eq, State.emit, List.append_assoc, Bool.not_false, Bool.and_true]
    rfl

/-- Settles O26: a request for the tuned frequency is not due. -/
theorem rxHfcSettles : Obligations.RxHfcSettles := by
  intro now s hfree hadmitted hret hold
  have hdue : settleDue now s.rx = true := settleDue_iff.mpr ⟨hret, hold⟩
  have hsame : retuneDue s.rx.curFreq now s.rx = false := not_retuneDue_iff.mpr (.inl rfl)
  have hrun : exec (.rxHfc s.rx.curFreq now) s = .next ((hfcSettle now s).respond .ok (settleReport now s)) := by
    rw [execRxHfc_free hfree hadmitted, hfcReport, hfcChange_not_due hsame, hsame]
    simp
  refine ⟨fun hno => ?_, fun hparam hup => ?_⟩
  · have hver : verifies s = false := by
      rcases hno with h | h <;> simp [verifies, h]
    obtain ⟨hstate, hreport⟩ := hfcSettle_unverified hdue hver
    rw [hrun, hstate, hreport]
    rfl
  · intro rb
    have hver : verifies s = true := by simp [verifies, hparam, hup]
    obtain ⟨hstate, hreport⟩ := hfcSettle_verified hdue hver
    have hword : settleReport now s =
        0x6 ||| rb.setWidth 32 <<< 4 ||| (if rb = (encodeFreq s.rx.curFreq).setWidth 20 then 0 else 0x8) := by
      rw [hreport, repVerified, ← BitVec.or_assoc]
      rfl
    rw [hrun, hstate, hword]
    simp only [State.respond_eq, State.emit, List.append_assoc]
    rfl

/-- Settles O27. -/
theorem rxHfcChangesNothing : Obligations.RxHfcChangesNothing := by
  intro f now s hfree hadmitted hchange hsettle
  have hdue : retuneDue f now s.rx = false := not_retuneDue_iff.mpr hchange
  have hdue' : settleDue now s.rx = false := not_settleDue_iff.mpr hsettle
  rw [execRxHfc_free hfree hadmitted, hfcReport, hfcChange_not_due hdue, hfcSettle_not_due hdue',
    settleReport_not_due hdue', hdue]
  rfl

end Sys2Proof.Machine
end

section
/-! The ports and the turns (R70 to R74, R86, R244, R260): what the step of a chosen turn is, how a port accepts a word and
issues its command, and the statements about them. -/

namespace Sys2Proof.Machine

open Claims

/-! ### A chosen turn -/

section
variable {s : State} {p : Port} {whole : Bool} {rest : List Turn}

theorem step_of_turn (hup : s.faulted = none) (hturn : s.env.sched = turn whole p :: rest) :
    step s = runPort whole p (s.setSched rest) := by
  cases whole <;> simp only [step, stepBlock, hturn, turn, turnOf, State.setSched_faulted, hup] <;> rfl

theorem step_of_reset (hturn : s.env.sched = .reset :: rest) : step s = .next (s.setSched rest).rst := by
  simp only [step, stepBlock, hturn]

theorem step_of_faulted {f : Fault} (hfaulted : s.faulted = some f) (hturn : s.env.sched = turn whole p :: rest) :
    step s = .next (s.setSched rest) := by
  cases whole <;> simp only [step, stepBlock, hturn, turn, turnOf, State.setSched_faulted, hfaulted] <;> rfl

/-- Taking a turn that was just put on an empty list gives the state back. -/
theorem State.setSched_nil (t : List Turn) (h : s.env.sched = []) : (s.setSched t).setSched [] = s := by
  unfold State.setSched
  rw [← h]

/-- With no turn chosen and no fault, a ready port's command is run whole (R74; log 6). -/
theorem step_of_ready (hup : s.faulted = none) (hturn : s.env.sched = []) (h : s.readyPort = some p) :
    step s = runPort true p s := by
  simp only [step, stepBlock, hturn, hup, h]

theorem step_of_idle (hup : s.faulted = none) (hturn : s.env.sched = []) (h : s.readyPort = none) :
    step s = .next s := by
  simp only [step, stepBlock, hturn, hup, h]

end

/-- Settles O9: the default turn is the one the list would choose, a whole turn of the ready port. -/
theorem p0IsTakenFirst : Obligations.P0IsTakenFirst := by
  intro s hup hturn
  have chosen : ∀ p, step (s.setSched [.whole p]) = runPort true p s := fun p => by
    rw [step_of_turn (s := s.setSched [.whole p]) (whole := true) (p := p) (rest := []) hup rfl, State.setSched_nil _ hturn]
  refine ⟨fun h0 => ?_, fun h0 h1 => ?_, fun h0 h1 => ?_⟩
  · rw [chosen, step_of_ready (p := .p0) hup hturn (by simp [State.readyPort, h0])]
  · rw [chosen, step_of_ready (p := .p1) hup hturn (by simp [State.readyPort, h0, h1])]
  · exact step_of_idle hup hturn (by simp [State.readyPort, h0, h1])

/-- Settles O13. -/
theorem resetTurnRestoresEveryRegister : Obligations.ResetTurnRestoresEveryRegister := by
  intro s rest hturn
  refine ⟨_, step_of_reset hturn, rfl, rfl, rfl, rfl, rfl, rfl, rfl, rfl, rfl, rfl, rfl, rfl, fun p => ?_⟩
  cases p <;> rfl

/-- Settles O14. -/
theorem faultedBlockAcceptsNothing : Obligations.FaultedBlockAcceptsNothing := by
  intro s f hf
  refine ⟨fun p rest hturn => step_of_faulted (whole := true) hf hturn,
    fun p rest hturn => step_of_faulted (whole := false) hf hturn, fun rest hturn => ⟨_, step_of_reset hturn, rfl⟩,
    fun hturn => ?_⟩
  simp only [step, stepBlock, hturn, hf]

/-! ### Accepting a word and issuing its command -/

section
variable {s : State} {p : Port} {whole : Bool} {w : Cmd} {q : List Cmd} {rest : List Turn} {i : Instr}

theorem accepted_eq_entered (s : State) (p : Port) (q : List Cmd) (rest : List Turn) :
    accepted s p q rest = entered p q (s.setSched rest) := rfl

/-- The accepting port's step decodes the word in the state `accepted` names (R72, R86). -/
theorem step_of_accepts (h : Accepts s p whole w q rest) : step s = accept whole w (accepted s p q rest) := by
  obtain ⟨hup, hturn, hfree, hnext⟩ := h
  have htaken : ((s.setSched rest).setCur p).setQueue p q = accepted s p q rest := by
    cases p <;> simp_all [accepted, State.setQueue, State.setPort, State.setCur, State.port]
  rw [step_of_turn hup hturn]
  simp only [runPort, State.port_setSched, hfree, hnext, htaken]

theorem accept_of_decode_ok (h : decode w = .ok i) : accept whole w s = issue whole i s := by
  simp only [accept, h]

theorem step_of_accepts_ok (h : Accepts s p whole w q rest) (hi : decode w = .ok i) :
    step s = issue whole i (accepted s p q rest) := by
  rw [step_of_accepts h, accept_of_decode_ok hi]

theorem issue_exec (h : whole = true ∨ busProgram i = none) : issue whole i s = exec i s := by
  cases whole with
  | true => rfl
  | false =>
    have hnone : busProgram i = none := h.resolve_left (by decide)
    simp only [issue, hnone]
    rfl

/-- A bus command issued in an atomic turn on a free bus runs its first segment (R71; log 16). -/
theorem issue_atom_free {ops : List BusOp} (hops : busProgram i = some ops) (hfree : s.busHeld = false) :
    issue false i s = .next (advance (Flight.start ops) s) := by
  simp only [issue, hops, hfree]
  rfl

/-- A bus command issued in a turn of either grain waits while the bus is held (R73). -/
theorem issue_held {ops : List BusOp} (hops : busProgram i = some ops) (hheld : s.busHeld = true) (whole : Bool) :
    issue whole i s = .next (s.waitForBus i) := by
  cases whole with
  | true => exact exec_waitForBus hops hheld
  | false => simp only [issue, hops, hheld]; rfl

/-- A command without a program is not a bus command, or its operand is refused. -/
theorem busProgram_eq_none_iff : busProgram i = none ↔ drivesBus i = false ∨ i.wellFormed = false := by
  rw [Option.eq_none_iff_forall_ne_some, ← not_exists, exists_busProgram_iff, not_and_or, Bool.not_eq_true,
    Bool.not_eq_true]

/-- An ill-formed command is answered `ILLEGAL_OPERAND` and has no other effect (R88, R89). -/
theorem exec_of_not_wellFormed (h : i.wellFormed = false) :
    exec i s = .next { s with trace := s.trace ++ [.rsp s.cur ⟨.illegalOperand, 0⟩] } := by
  have refused : ∀ f run, admitted f = false → withFreq f run s = s.respond .illegalOperand 0 := fun f run hf =>
    if_neg (Bool.not_eq_true _ ▸ hf)
  cases i with
  | rxSetfreq f now => exact congrArg _ (refused f _ h)
  | rxHfc f now => exact congrArg _ (refused f _ h)
  | cfgFreq f => exact congrArg _ (refused f _ h)
  | _ => cases h

theorem accepted_trace : (accepted s p q rest).trace = s.trace := by simp [accepted]

theorem accepted_cur : (accepted s p q rest).cur = p := by simp [accepted]

/-- The bus is held for the accepting port exactly when the other port is in the middle of a bus command (R73). -/
theorem accepted_busHeld_iff : (accepted s p q rest).busHeld = true ↔ ∃ f, (s.port p.other).busy = .running f := by
  rw [State.busHeld_iff, accepted_cur, accepted_eq_entered, entered_port_other, State.port_setSched]

theorem accepted_waitForBus (i : Instr) :
    (accepted s p q rest).waitForBus i = (accepted s p q rest).setPort p { queue := q, busy := .waiting i } := by
  cases p <;> rfl

/-- A waiting port's turn: it goes on waiting while the bus is held, else it issues its command (R73; log 7). -/
theorem step_of_waiting (hup : s.faulted = none) (hturn : s.env.sched = turn whole p :: rest)
    (hwait : (s.port p).busy = .waiting i) :
    step s = if (accepted s p (s.port p).queue rest).busHeld then .next (s.setSched rest)
      else issue whole i (accepted s p (s.port p).queue rest) := by
  have hstart : ((s.setSched rest).setCur p).setBusy p .idle = accepted s p (s.port p).queue rest := by cases p <;> rfl
  have hheld : ((s.setSched rest).setCur p).busHeld = (accepted s p (s.port p).queue rest).busHeld := by cases p <;> rfl
  rw [step_of_turn hup hturn]
  simp only [runPort, State.port_setSched, hwait, hstart, hheld]

end

/-- Settles O7: the step is `exec` of the decoded command, and `withFetchWord` names a state whose P0 accepts the word. -/
theorem stepRunsDecodedCommand : Obligations.StepRunsDecodedCommand := by
  refine ⟨fun s p whole w q rest i h hi hgrain => ?_, fun s nbits w i hi => ?_⟩
  · rw [step_of_accepts_ok h hi, issue_exec hgrain]
  · have hdecode : decode (tableWord nbits w) = .ok i := by
      unfold decodeTableWord at hi
      split at hi
      case h_1 j hj => cases hi; exact hj
      case h_2 => cases hi
    have haccepts : Accepts (s.withFetchWord nbits w) .p0 true (tableWord nbits w) s.p0.queue s.env.sched :=
      ⟨rfl, rfl, rfl, rfl⟩
    rw [step_of_accepts_ok haccepts hdecode, issue_exec (.inl rfl)]
    rfl

/-- Settles O8: the first two checks are the decoder's, read off the opcode table; the third is the command's own. -/
theorem portAnswersByFirstFailingCheck : Obligations.PortAnswersByFirstFailingCheck := by
  intro s p whole w q rest haccepts s1 answer
  have hanswer : ∀ st, answer st = .next { s1 with trace := s1.trace ++ [.rsp s1.cur ⟨st, 0⟩] } := fun st => by
    simp only [answer, s1, accepted_trace, accepted_cur]
  have refusedWith : ∀ e, decode w = .error e → step s = answer (refusalStatus e) := fun e he => by
    rw [step_of_accepts haccepts, accept_of_decode_error he, hanswer]
  refine ⟨fun hno => refusedWith _ ((decode_illegalOpcode_iff_table w).mpr hno), fun row hrow hopc => ⟨fun hmask => ?_,
    fun hmask => ?_⟩⟩
  · exact refusedWith _ ((decode_by_row hrow hopc).2.mpr hmask)
  · obtain ⟨i, hi⟩ := (decode_by_row hrow hopc).1.mpr hmask
    refine ⟨i, hi, fun hill => ?_, fun hwf hgrain => ?_, fun hwf hatom hbus hfree => ?_⟩
    · rw [step_of_accepts_ok haccepts hi, issue_exec (.inr (busProgram_eq_none_iff.mpr (.inr hill))),
        exec_of_not_wellFormed hill, hanswer]
    · rw [step_of_accepts_ok haccepts hi, issue_exec (hgrain.imp_right fun h => busProgram_eq_none_iff.mpr (.inl h))]
    · obtain ⟨ops, hops⟩ := (exists_busProgram_iff i).mpr ⟨hbus, hwf⟩
      refine ⟨ops, hops, ?_⟩
      rw [step_of_accepts_ok haccepts hi, hatom, issue_atom_free hops hfree]

/-- Settles O10: waiting is the one effect of a bus command on a held bus, and a waiting command is issued once it is free. -/
theorem busyBusMakesCommandsWait : Obligations.BusyBusMakesCommandsWait := by
  refine ⟨fun i s hbus hwf hheld => ?_, fun s p whole w q rest i haccepts hi hbus hwf hother => ?_,
    fun s p whole i rest hup hturn hwait => ?_⟩
  · obtain ⟨ops, hops⟩ := (exists_busProgram_iff i).mpr ⟨hbus, hwf⟩
    exact exec_waitForBus hops hheld
  · obtain ⟨ops, hops⟩ := (exists_busProgram_iff i).mpr ⟨hbus, hwf⟩
    rw [step_of_accepts_ok haccepts hi, issue_held hops (accepted_busHeld_iff.mpr hother), accepted_waitForBus]
  · intro s1
    have hstep : step s = if s1.busHeld then .next (s.setSched rest) else issue whole i s1 :=
      step_of_waiting hup hturn hwait
    refine ⟨fun hother => ?_, fun hother => ?_⟩
    · rw [hstep, show s1.busHeld = true from accepted_busHeld_iff.mpr hother]; rfl
    · have hfree : s1.busHeld = false := by
        rw [← Bool.not_eq_true]
        exact mt accepted_busHeld_iff.mp (not_exists.mpr hother)
      rw [hfree] at hstep
      refine ⟨fun hgrain => ?_, fun hatom hbus hwf => ?_⟩
      · exact hstep.trans (issue_exec (hgrain.imp_right busProgram_eq_none_iff.mpr))
      · obtain ⟨ops, hops⟩ := (exists_busProgram_iff i).mpr ⟨hbus, hwf⟩
        refine ⟨ops, hops, ?_⟩
        rw [hatom] at hstep
        exact hstep.trans (issue_atom_free hops hfree)

end Sys2Proof.Machine
end

section
/-! A bus command run by atomic turns against its whole run (R6, R71). The turns of one port with nothing in between are the
actions of its flight (`run_actions`); the actions of each program lead to the state its meaning gives (`leads_program`). -/

namespace Sys2Proof.Machine

open Claims

/-! ### The flight's port beside the rest of the state -/

/-- The state `u` with port `p` and the list of turns as given: what `u` says of the two is overwritten. -/
def State.placed (p : Port) (ps : PortState) (r : List Turn) (u : State) : State := (u.setSched r).setPort p ps

section
variable (p : Port) (ps : PortState) (r : List Turn) (u : State)

@[simp] theorem State.placed_rx : (u.placed p ps r).rx = u.rx := by simp [State.placed]
@[simp] theorem State.placed_seq : (u.placed p ps r).seq = u.seq := by simp [State.placed]
@[simp] theorem State.placed_faulted : (u.placed p ps r).faulted = u.faulted := by simp [State.placed]
@[simp] theorem State.placed_cur : (u.placed p ps r).cur = u.cur := by simp [State.placed]
@[simp] theorem State.placed_trace : (u.placed p ps r).trace = u.trace := by simp [State.placed]
@[simp] theorem State.placed_sched : (u.placed p ps r).env.sched = r := by simp [State.placed]
@[simp] theorem State.placed_port : (u.placed p ps r).port p = ps := by simp [State.placed]

theorem State.placed_setBusy (b : Busy) : (u.placed p ps r).setBusy p b = u.placed p { ps with busy := b } r := by
  cases p <;> rfl

theorem State.placed_setSched (r' : List Turn) : (u.placed p ps r).setSched r' = u.placed p ps r' := by
  cases p <;> rfl

variable {p ps r u}

theorem State.placed_setCur (h : u.cur = p) : (u.placed p ps r).setCur p = u.placed p ps r := by
  subst h
  cases hc : u.cur <;> simp [State.placed, State.setSched, State.setPort, State.setCur, hc]

theorem State.placed_self (hport : u.port p = ps) (hsched : u.env.sched = r) : u.placed p ps r = u := by
  subst hport hsched
  cases p <;> rfl

end

section
variable (p : Port) (ps : PortState) (r : List Turn)

theorem runSegment_placed (g : Segment) (f : Flight) (u : State) :
    runSegment g f (u.placed p ps r) = ((runSegment g f u).1.placed p ps r, (runSegment g f u).2) := by
  have hverifies : verifies (u.placed p ps r) = verifies u := by cases p <;> rfl
  cases g with
  | change f now => simp only [runSegment, State.placed_rx]; split <;> cases p <;> rfl
  | settle now =>
    simp only [runSegment, State.placed_rx, hverifies]
    split
    · split <;> cases p <;> rfl
    · rfl
  | idle => cases p <;> rfl
  | power d => cases p <;> rfl
  | tune f now => cases p <;> rfl
  | arm now => cases p <;> rfl
  | compare => cases p <;> rfl

theorem driveFrame_placed (q : FrameReq) (rest : List BusOp) (f : Flight) (u : State) :
    driveFrame q rest f (u.placed p ps r) =
      ((driveFrame q rest f u).1.placed p ps r, (driveFrame q rest f u).2) := by
  have hplaced : ∀ {x}, u.seq = x → (u.placed p ps r).seq = x := fun h => (State.placed_seq ..).trans h
  rcases hseq : u.seq with _ | ⟨n, b, ph⟩
  · rw [driveFrame_idle (hplaced hseq), driveFrame_idle hseq]; cases p <;> rfl
  · cases ph with
    | setup => rw [driveFrame_setup (hplaced hseq), driveFrame_setup hseq]; cases p <;> rfl
    | high => rw [driveFrame_high (hplaced hseq), driveFrame_high hseq]; cases p <;> rfl
    | low =>
      rcases next_cell b with ⟨b', hb⟩ | rfl
      · rw [driveFrame_low hb (hplaced hseq), driveFrame_low hb hseq]; cases p <;> rfl
      · rw [driveFrame_last (hplaced hseq), driveFrame_last hseq]
        cases q <;> cases p <;> rfl

/-- An action neither reads nor writes the ports and the list of turns. -/
theorem act_placed (f : Flight) (u : State) :
    act (u.placed p ps r, f) = ((act (u, f)).1.placed p ps r, (act (u, f)).2) := by
  rcases htodo : f.todo with _ | ⟨op, rest⟩
  · simp only [act, htodo]
  · cases op with
    | seg g => simp only [act, htodo, runSegment_placed]
    | frame q => simp only [act, htodo, driveFrame_placed]

end

/-- What actions leave alone: the ports, the port of the command, FAULTED, the turns, and the parameter of R126. -/
theorem acts_kept (n : Nat) (x : State × Flight) :
    (∀ p, (acts n x).1.port p = x.1.port p) ∧ (acts n x).1.cur = x.1.cur ∧ (acts n x).1.faulted = x.1.faulted ∧
    (acts n x).1.env.sched = x.1.env.sched ∧ (acts n x).1.env.verifyReadback = x.1.env.verifyReadback := by
  induction n generalizing x with
  | zero => exact ⟨fun _ => rfl, rfl, rfl, rfl, rfl⟩
  | succ n ih =>
    obtain ⟨hport, hcur, hfaulted, hsched, hverify⟩ := ih (act x)
    obtain ⟨hframe, henv⟩ := act_frame x
    have hstep : (act x).1.faulted = x.1.faulted := by rw [hframe]
    have henv' : (act x).1.env.sched = x.1.env.sched ∧ (act x).1.env.verifyReadback = x.1.env.verifyReadback := by
      rcases henv with e | e <;> rw [e] <;> exact ⟨rfl, rfl⟩
    exact ⟨fun p => (hport p).trans (act_port x p), hcur.trans (act_ports x).2.2, hfaulted.trans hstep,
      hsched.trans henv'.1, hverify.trans henv'.2⟩

/-! ### Atomic turns of one port -/

section
variable {p : Port} {q : List Cmd} {r : List Turn} {u : State} {f : Flight}

/-- The state with the flight `f` of port `p` in the middle of its actions, the rest as in `u`. -/
def State.flying (p : Port) (q : List Cmd) (r : List Turn) (x : State × Flight) : State :=
  x.1.placed p { queue := q, busy := .running x.2 } r

/-- The state with port `p` free after the response `rep`, the rest as in `u`. -/
def State.answered (p : Port) (q : List Cmd) (r : List Turn) (x : State × Flight) : State :=
  (x.1.placed p { queue := q, busy := .idle } r).respond .ok x.2.rep

/-- An advance with something left, from a state that differs from `u` in the port and the turns. -/
theorem advance_placed_act (b : Busy) (hcur : u.cur = p) (h : f.todo ≠ []) :
    advance f (u.placed p { queue := q, busy := b } r) = State.flying p q r (act (u, f)) := by
  rw [advance_act h, act_placed, State.placed_cur, hcur, State.placed_setBusy]
  rfl

theorem step_of_flying (hcur : u.cur = p) (hup : u.faulted = none) :
    step (State.flying p q (.atom p :: r) (u, f)) =
      .next (advance f (u.placed p { queue := q, busy := .running f } r)) := by
  have hturn : (State.flying p q (.atom p :: r) (u, f)).env.sched = turn false p :: r := State.placed_sched ..
  have hup' : (State.flying p q (.atom p :: r) (u, f)).faulted = none := (State.placed_faulted ..).trans hup
  rw [step_of_turn hup' hturn, State.flying, State.placed_setSched]
  simp only [runPort, State.placed_port, State.placed_setCur hcur]

theorem step_flying_act (hcur : u.cur = p) (hup : u.faulted = none) (h : f.todo ≠ []) :
    step (State.flying p q (.atom p :: r) (u, f)) = .next (State.flying p q r (act (u, f))) := by
  rw [step_of_flying hcur hup, advance_placed_act _ hcur h]

theorem step_flying_done (hcur : u.cur = p) (hup : u.faulted = none) (h : f.todo = []) :
    step (State.flying p q (.atom p :: r) (u, f)) = .next (State.answered p q r (u, f)) := by
  rw [step_of_flying hcur hup, advance_done h, State.placed_cur, hcur, State.placed_setBusy]
  rfl

/-- The first turn accepts the word, and is the first action of the program (log 16). -/
theorem step_first_action {s : State} {w : Cmd} {i : Instr} {ops : List BusOp} (hup : s.faulted = none)
    (hidle : (s.port p).busy = .idle) (hother : ∀ f, (s.port p.other).busy ≠ .running f) (hqueue : (s.port p).queue = w :: q)
    (hdecode : decode w = .ok i) (hops : busProgram i = some ops) (hne : ops ≠ []) (rest : List Turn) :
    step (s.setSched (.atom p :: r)) = .next (State.flying p q r (act (accepted s p q rest, Flight.start ops))) := by
  have haccepts : Accepts (s.setSched (.atom p :: r)) p false w q r :=
    ⟨hup, rfl, by rw [State.port_setSched]; exact hidle, by rw [State.port_setSched]; exact hqueue⟩
  have hfree : (accepted (s.setSched (.atom p :: r)) p q r).busHeld = false := by
    rw [← Bool.not_eq_true, accepted_busHeld_iff, State.port_setSched]
    exact not_exists.mpr hother
  have hplaced : accepted (s.setSched (.atom p :: r)) p q r =
      (accepted s p q rest).placed p { queue := q, busy := .idle } r := by cases p <;> rfl
  rw [step_of_accepts_ok haccepts hdecode, issue_atom_free hops hfree, hplaced,
    advance_placed_act _ accepted_cur hne]

end

/-- A run goes on where its first steps lead. -/
theorem run_of_step {s t : State} (h : step s = .next t) (n : Nat) :
    Host.Core.run Sys2Proof.core (n + 1) s = Host.Core.run Sys2Proof.core n t := by
  have hcore : Sys2Proof.core.step s = .next t := h
  simp only [Host.Core.run, hcore]

/-- Turns of one port carry its flight through its actions, and one turn more answers. -/
theorem run_actions {p : Port} (q : List Cmd) (rest : List Turn) (n : Nat) (x : State × Flight) (hcur : x.1.cur = p)
    (hup : x.1.faulted = none) (hbusy : ∀ j, j < n → (acts j x).2.todo ≠ []) (hdone : (acts n x).2.todo = []) :
    Host.Core.run Sys2Proof.core (n + 1) (State.flying p q (List.replicate (n + 1) (.atom p) ++ rest) x) =
      .next (State.answered p q rest (acts n x)) := by
  induction n generalizing x with
  | zero => exact (run_of_step (step_flying_done (f := x.2) hcur hup hdone) 0).trans rfl
  | succ n ih =>
    obtain ⟨_, hcur', hup', _⟩ := acts_kept 1 x
    have hne : x.2.todo ≠ [] := hbusy 0 (Nat.succ_pos n)
    exact (run_of_step (step_flying_act (f := x.2) hcur hup hne) (n + 1)).trans
      (ih (act x) (hcur'.trans hcur) (hup'.trans hup) (fun j hj => hbusy (j + 1) (Nat.succ_lt_succ hj)) hdone)

/-! ### Where the actions of a program lead -/

/-- Some number of actions takes `x` to `y`, with something left before each of them. -/
def Leads (x y : State × Flight) : Prop := ∃ n, acts n x = y ∧ ∀ j, j < n → (acts j x).2.todo ≠ []

theorem Leads.refl (x : State × Flight) : Leads x x := ⟨0, rfl, fun _ hj => absurd hj (Nat.not_lt_zero _)⟩

theorem Leads.trans {x y z : State × Flight} (hxy : Leads x y) (hyz : Leads y z) : Leads x z := by
  obtain ⟨m, rfl, hm⟩ := hxy
  obtain ⟨n, rfl, hn⟩ := hyz
  refine ⟨m + n, acts_add m n x, fun j hj => ?_⟩
  by_cases h : j < m
  · exact hm j h
  · have e : j = m + (j - m) := by omega
    rw [e, acts_add]
    exact hn (j - m) (by omega)

section
variable {s : State} {f : Flight} {rest : List BusOp}

theorem leads_seg {g : Segment} (h : f.todo = .seg g :: rest) : Leads (s, f) (runSegment g { f with todo := rest } s) := by
  refine ⟨1, by simp only [acts, act, h], fun j hj => ?_⟩
  rw [Nat.lt_one_iff.mp hj]
  exact fun hnil => by rw [show f.todo = [] from hnil] at h; cases h

theorem leads_frame {q : FrameReq} (h : f.todo = .frame q :: rest) (hseq : s.seq = none) :
    Leads (s, f) ((wholeFrame q s).1, { f with todo := rest, frames := f.frames + 1, rb := (wholeFrame q s).2 }) :=
  ⟨76, acts_frame h hseq⟩

/-- The flight has the list `rest` and the report `rep` left. -/
def Flight.Left (rest : List BusOp) (rep : BitVec 32) (f : Flight) : Prop := f.todo = rest ∧ f.rep = rep

theorem leads_frames {fs : List (BusAddr × BusData)} (h : f.todo = frameOps fs ++ rest) (hseq : s.seq = none) :
    ∃ f', Leads (s, f) (s.busWrites fs, f') ∧ f'.Left rest f.rep := by
  induction fs generalizing s f with
  | nil => exact ⟨f, Leads.refl _, h, rfl⟩
  | cons x fs ih =>
    obtain ⟨a, d⟩ := x
    obtain ⟨f', hleads, hleft⟩ := ih (s := s.busWrite a d)
      (f := { f with todo := frameOps fs ++ rest, frames := f.frames + 1, rb := 0 }) rfl hseq
    exact ⟨f', (leads_frame h hseq).trans hleads, hleft⟩

/-- The path after S1 leads where `SetFreqCore` does (R120). -/
theorem leads_tunePath {m : Mhz} {now : Ms} (h : f.todo = tunePath s.rx.pwrDown m now ++ rest) (hseq : s.seq = none) :
    ∃ f', Leads (s.setCurFreq m, f) (setFreqCore m now s, f') ∧ f'.Left rest f.rep := by
  by_cases hm : m = Config.powerDownFreq
  · have htodo : f.todo = frameOps Config.pdSeq ++ .seg (.power true) :: rest := by
      rw [h, tunePath, if_pos hm, List.append_assoc]; rfl
    have hcore : setFreqCore m now s = ((s.setCurFreq m).busWrites Config.pdSeq).setPwrDown true := by
      rw [setFreqCore, if_pos hm]
    obtain ⟨f', hframes, hleft, hrep⟩ := leads_frames (s := s.setCurFreq m) htodo hseq
    rw [hcore]
    exact ⟨_, hframes.trans (leads_seg hleft), rfl, hrep⟩
  · have tuned : ∀ (u : State) (g : Flight), u.seq = none →
        g.todo = .frame (.write Config.tuneAddr (tuneData m)) :: .seg (.arm now) :: rest →
        ∃ f', Leads (u, g) ((u.busWrite Config.tuneAddr (tuneData m)).arm now, f') ∧ f'.Left rest g.rep := by
      intro u g hu hg
      have harm := leads_seg (s := u.busWrite Config.tuneAddr (tuneData m)) (g := .arm now) (rest := rest)
        (f := { g with todo := .seg (.arm now) :: rest, frames := g.frames + 1, rb := 0 }) rfl
      exact ⟨_, (leads_frame hg hu).trans harm, rfl, rfl⟩
    cases hdown : s.rx.pwrDown with
    | true =>
      have htodo : f.todo = frameOps Config.wakeSeq ++ .seg (.power false) ::
          .frame (.write Config.tuneAddr (tuneData m)) :: .seg (.arm now) :: rest := by
        rw [h, tunePath, if_neg hm, hdown]; rfl
      have hcore : setFreqCore m now s =
          ((((s.setCurFreq m).busWrites Config.wakeSeq).setPwrDown false).busWrite Config.tuneAddr (tuneData m)).arm now := by
        have hdown' : (s.setCurFreq m).rx.pwrDown = true := hdown
        simp only [setFreqCore, if_neg hm, hdown', if_true]
      obtain ⟨f', hframes, hleft, hrep⟩ := leads_frames (s := s.setCurFreq m) htodo hseq
      obtain ⟨f'', htuned, hleft', hrep'⟩ := tuned (((s.setCurFreq m).busWrites Config.wakeSeq).setPwrDown false) _ hseq
        (show ({ f' with todo := _ } : Flight).todo = _ from rfl)
      rw [hcore]
      exact ⟨f'', (hframes.trans (leads_seg hleft)).trans htuned, hleft', hrep'.trans hrep⟩
    | false =>
      have htodo : f.todo = .frame (.write Config.tuneAddr (tuneData m)) :: .seg (.arm now) :: rest := by
        rw [h, tunePath, if_neg hm, hdown]; rfl
      have hcore : setFreqCore m now s = ((s.setCurFreq m).busWrite Config.tuneAddr (tuneData m)).arm now := by
        have hdown' : (s.setCurFreq m).rx.pwrDown = false := hdown
        simp only [setFreqCore, if_neg hm, hdown']
        rfl
      rw [hcore]
      exact tuned (s.setCurFreq m) f hseq htodo

/-- H1 and all it leads to (R125). -/
theorem leads_change {m : Mhz} {now : Ms} (h : f.todo = .seg (.change m now) :: rest) (hseq : s.seq = none) :
    ∃ f', Leads (s, f) (hfcChange m now s, f') ∧
      f'.Left rest (f.rep ||| (if retuneDue m now s.rx then repRetune else 0)) := by
  have hfirst := leads_seg (s := s) h
  by_cases hdue : retuneDue m now s.rx = true
  · simp only [runSegment, hdue, if_true] at hfirst
    obtain ⟨f', hpath, hleft⟩ := leads_tunePath (s := s) (m := m) (now := now) (rest := rest)
      (f := { f with todo := tunePath s.rx.pwrDown m now ++ rest, rep := f.rep ||| repRetune }) rfl hseq
    rw [hfcChange_due hdue, if_pos hdue]
    exact ⟨f', hfirst.trans hpath, hleft⟩
  · have hnot := Bool.eq_false_of_not_eq_true hdue
    simp only [runSegment, hdue] at hfirst
    rw [hfcChange_not_due hnot, if_neg hdue]
    exact ⟨_, hfirst, rfl, BitVec.or_zero.symm⟩

/-- H2, and H3 with its read-back frame where H2 verifies (R125, R126). -/
theorem leads_settle {now : Ms} (h : f.todo = .seg (.settle now) :: rest) (hseq : s.seq = none) :
    ∃ f', Leads (s, f) (hfcSettle now s, f') ∧ f'.Left rest (f.rep ||| settleReport now s) := by
  have hfirst := leads_seg (s := s) h
  by_cases hdue : settleDue now s.rx = true
  · cases hver : verifies s with
    | true =>
      simp only [runSegment, hdue, hver, if_true] at hfirst
      have hread := leads_frame (s := s.clearRetuned) (q := .read Config.tuneAddr) (rest := .seg .compare :: rest)
        (f := { f with todo := .frame (.read Config.tuneAddr) :: .seg .compare :: rest, rep := f.rep ||| repSettled })
        rfl hseq
      obtain ⟨hstate, hreport⟩ := hfcSettle_verified hdue hver
      rw [hstate, hreport]
      have hcompare := leads_seg (s := s.clearRetuned.busRead Config.tuneAddr) (g := .compare) (rest := rest)
        (f := { todo := .seg .compare :: rest, frames := f.frames + 1, rep := f.rep ||| repSettled, rb := s.env.nextRead })
        rfl
      refine ⟨_, (hfirst.trans hread).trans hcompare, rfl, ?_⟩
      simp only [BitVec.or_assoc]
      rfl
    | false =>
      simp only [runSegment, hdue, hver, if_true] at hfirst
      obtain ⟨hstate, hreport⟩ := hfcSettle_unverified hdue hver
      rw [hstate, hreport]
      exact ⟨_, hfirst, rfl, rfl⟩
  · have hnot := Bool.eq_false_of_not_eq_true hdue
    simp only [runSegment, hdue] at hfirst
    rw [hfcSettle_not_due hnot, settleReport_not_due hnot]
    exact ⟨_, hfirst, rfl, BitVec.or_zero.symm⟩

end

theorem busProgram_ne_nil {i : Instr} {ops : List BusOp} (h : busProgram i = some ops) : ops ≠ [] := by
  rintro rfl
  cases i with
  | rxSetfreq m now => obtain ⟨_, h⟩ := Option.ite_none_right_eq_some.mp h; cases h
  | rxHfc m now => obtain ⟨_, h⟩ := Option.ite_none_right_eq_some.mp h; cases h
  | _ => cases h

/-- The program of a bus command leads to the state its whole run answers from, with its report (R6, R71). -/
theorem leads_program {i : Instr} {ops : List BusOp} {u : State} (hops : busProgram i = some ops) (hseq : u.seq = none)
    (hfree : u.busHeld = false) :
    ∃ t f, Leads (u, Flight.start ops) (t, f) ∧ f.todo = [] ∧ exec i u = .next (t.respond .ok f.rep) := by
  cases i with
  | rxInit =>
    cases hops
    have hidle := leads_seg (s := u) (f := Flight.start (.seg .idle :: (frameOps Config.wakeSeq ++
      [.seg (.power false), .seg (.tune Config.powerDownFreq 0)]))) rfl
    obtain ⟨f1, hwake, hleft1, hrep1⟩ := leads_frames (s := u.idlePins) (fs := Config.wakeSeq)
      (f := Flight.start (frameOps Config.wakeSeq ++ [.seg (.power false), .seg (.tune Config.powerDownFreq 0)])) rfl hseq
    have hpower := leads_seg (s := u.idlePins.busWrites Config.wakeSeq) hleft1
    have htune := leads_seg (s := (u.idlePins.busWrites Config.wakeSeq).setPwrDown false)
      (f := { f1 with todo := [.seg (.tune Config.powerDownFreq 0)] }) rfl
    obtain ⟨f2, hpath, hleft2, hrep2⟩ := leads_tunePath (s := (u.idlePins.busWrites Config.wakeSeq).setPwrDown false)
      (m := Config.powerDownFreq) (now := 0) (rest := [])
      (f := { f1 with todo := tunePath false Config.powerDownFreq 0 ++ [] }) rfl hseq
    refine ⟨initCore u, f2, (((hidle.trans hwake).trans hpower).trans htune).trans hpath, hleft2, ?_⟩
    rw [hrep2.trans hrep1]
    simp only [exec, execRxInit, busCommand, hfree]
    rfl
  | rxSetfreq m now =>
    obtain ⟨hm, hops⟩ := Option.ite_none_right_eq_some.mp hops
    cases hops
    have htune := leads_seg (s := u) (f := Flight.start [.seg (.tune m now)]) rfl
    obtain ⟨f, hpath, hleft, hrep⟩ := leads_tunePath (s := u) (m := m) (now := now) (rest := [])
      (f := Flight.start (tunePath u.rx.pwrDown m now ++ [])) rfl hseq
    refine ⟨_, f, htune.trans hpath, hleft, ?_⟩
    rw [execRxSetfreq_free hfree hm, hrep]
    rfl
  | rxHfc m now =>
    obtain ⟨hm, hops⟩ := Option.ite_none_right_eq_some.mp hops
    cases hops
    have hseq' : (hfcChange m now u).seq = none := by
      obtain ⟨_, _, _, e⟩ := hfcChange_frame m now u
      rw [e]; exact hseq
    obtain ⟨f1, hchange, hleft1, hrep1⟩ := leads_change (s := u) (m := m) (now := now) (rest := [.seg (.settle now)])
      (f := Flight.start [.seg (.change m now), .seg (.settle now)]) rfl hseq
    obtain ⟨f2, hsettle, hleft2, hrep2⟩ := leads_settle hleft1 hseq'
    refine ⟨_, f2, hchange.trans hsettle, hleft2, ?_⟩
    have hreport : f2.rep = hfcReport m now u := by
      rw [hrep2, hrep1, hfcReport]
      exact congrArg (· ||| _) BitVec.zero_or
    rw [execRxHfc_free hfree hm, hreport]
  | _ => cases hops

/-- A command accepted in an atomic turn, run to its answer: the turns are the actions of its program, and one more. -/
theorem run_command {s : State} {p : Port} {w : Cmd} {q : List Cmd} {i : Instr} {ops : List BusOp} (hup : s.faulted = none)
    (hidle : (s.port p).busy = .idle) (hother : ∀ f, (s.port p.other).busy ≠ .running f) (hqueue : (s.port p).queue = w :: q)
    (hdecode : decode w = .ok i) (hops : busProgram i = some ops) (rest : List Turn) {n : Nat} {y : State × Flight}
    (hn : acts (n + 1) (accepted s p q rest, Flight.start ops) = y)
    (hbusy : ∀ j, j < n + 1 → (acts j (accepted s p q rest, Flight.start ops)).2.todo ≠ []) (hdone : y.2.todo = []) :
    Host.Core.run Sys2Proof.core (n + 2) (s.setSched (List.replicate (n + 2) (.atom p) ++ rest)) =
      .next (State.answered p q rest y) := by
  obtain ⟨_, hcur1, hup1, _⟩ := acts_kept 1 (accepted s p q rest, Flight.start ops)
  have hup' : (accepted s p q rest).faulted = none := by simpa [accepted] using hup
  have hfirst := step_first_action (r := List.replicate (n + 1) (.atom p) ++ rest) hup hidle hother hqueue hdecode hops
    (hbusy 0 (Nat.succ_pos n)) rest
  have hactions := run_actions q rest n (act (accepted s p q rest, Flight.start ops)) (hcur1.trans accepted_cur)
    (hup1.trans hup') (fun j hj => hbusy (j + 1) (Nat.succ_lt_succ hj)) (by rw [← hn] at hdone; exact hdone)
  subst hn
  exact (run_of_step hfirst (n + 1)).trans hactions

/-- Settles O11: the turns are the program's actions, which leave the port and the turns as accepting left them, so the end is
the whole run's own state. -/
theorem segmentedRunEndsAsWholeRun : Obligations.SegmentedRunEndsAsWholeRun := by
  intro s p w q rest i hup hseq hidle hother hqueue hdecode hbus hwf
  obtain ⟨ops, hops⟩ := (exists_busProgram_iff i).mpr ⟨hbus, hwf⟩
  have hfree : (accepted s p q rest).busHeld = false := by
    rw [← Bool.not_eq_true, accepted_busHeld_iff]
    exact not_exists.mpr hother
  have hseq' : (accepted s p q rest).seq = none := by simpa [accepted] using hseq
  have hwhole : step (s.setSched (.whole p :: rest)) = exec i (accepted s p q rest) := by
    have haccepts : Accepts (s.setSched (.whole p :: rest)) p true w q rest :=
      ⟨hup, rfl, by rw [State.port_setSched]; exact hidle, by rw [State.port_setSched]; exact hqueue⟩
    rw [step_of_accepts_ok haccepts hdecode, issue_exec (.inl rfl)]
    rfl
  obtain ⟨t, f, ⟨n, hn, hbusy⟩, hdone, hexec⟩ := leads_program hops hseq' hfree
  obtain ⟨k, rfl⟩ : ∃ k, n = k + 1 := by
    cases n with
    | zero => cases hn; exact absurd hdone (busProgram_ne_nil hops)
    | succ k => exact ⟨k, rfl⟩
  obtain ⟨hport, _, _, hsched, _⟩ := acts_kept (k + 1) (accepted s p q rest, Flight.start ops)
  rw [hn] at hport hsched
  have hself : State.answered p q rest (t, f) = t.respond .ok f.rep := by
    refine congrArg _ (State.placed_self ((hport p).trans ?_) (hsched.trans ?_))
    · rw [accepted_eq_entered, entered_port]
    · simp [accepted]
  refine ⟨k + 2, ?_⟩
  rw [hwhole, hexec, ← hself]
  exact run_command hup hidle hother hqueue hdecode hops rest hn hbusy hdone

end Sys2Proof.Machine
end

section
/-! How far a bus command has come, action by action (R71, R120, R121, R125). A view keeps what the statement speaks of: the RXD
registers, what is left of the program, and the frames sent. `Throughout P` says that `P` holds of every view from a given one
on; its rules, one for each kind of action, walk the paths of the commands. -/

namespace Sys2Proof.Machine

open Claims

/-! ### Views -/

/-- What the block shows of a flight: the RXD registers `r`, the actions left, and the frames `fs` sent after the outputs
`tr`; `vb` is the parameter `VERIFY_READBACK`. -/
structure Views (tr : List Obs) (vb : Bool) (r : Rxd) (ops : List BusOp) (fs : List BusFrame) (x : State × Flight) : Prop where
  rx : x.1.rx = r
  todo : x.2.todo = ops
  trace : x.1.trace = tr ++ fs.map Obs.frame
  verify : x.1.env.verifyReadback = vb

/-- The segment takes the registers `r` to `r'` and puts `ops` before what is left (R71). -/
def SegLeads (vb : Bool) (g : Segment) (r r' : Rxd) (ops : List BusOp) : Prop :=
  ∀ (s : State) (f : Flight), s.rx = r → s.env.verifyReadback = vb →
    (runSegment g f s).1.rx = r' ∧ (runSegment g f s).2.todo = ops ++ f.todo

section
variable {vb : Bool} {r : Rxd}

theorem segLeads_idle : SegLeads vb .idle r r [] := by
  rintro s f rfl -; exact ⟨rfl, rfl⟩

theorem segLeads_power (d : Bool) : SegLeads vb (.power d) r { r with pwrDown := d } [] := by
  rintro s f rfl -; exact ⟨rfl, rfl⟩

theorem segLeads_arm (now : Ms) : SegLeads vb (.arm now) r { r with retuned := true, retuneTs := now } [] := by
  rintro s f rfl -; exact ⟨rfl, rfl⟩

theorem segLeads_compare : SegLeads vb .compare r r [] := by
  rintro s f rfl -; exact ⟨rfl, rfl⟩

theorem segLeads_tune (m : Mhz) (now : Ms) :
    SegLeads vb (.tune m now) r { r with curFreq := m } (tunePath r.pwrDown m now) := by
  rintro s f rfl -; exact ⟨rfl, rfl⟩

theorem segLeads_change {m : Mhz} {now : Ms} (h : retuneDue m now r = true) :
    SegLeads vb (.change m now) r { r with curFreq := m } (tunePath r.pwrDown m now) := by
  rintro s f rfl -
  have e : runSegment (.change m now) f s =
      (s.setCurFreq m, { f with todo := tunePath s.rx.pwrDown m now ++ f.todo, rep := f.rep ||| repRetune }) := if_pos h
  rw [e]
  exact ⟨rfl, rfl⟩

theorem segLeads_change_not_due {m : Mhz} {now : Ms} (h : retuneDue m now r = false) :
    SegLeads vb (.change m now) r r [] := by
  rintro s f rfl -
  have e : runSegment (.change m now) f s = (s, f) := if_neg (Bool.not_eq_true _ ▸ h)
  rw [e]
  exact ⟨rfl, rfl⟩

theorem segLeads_settle_not_due {now : Ms} (h : settleDue now r = false) : SegLeads vb (.settle now) r r [] := by
  rintro s f rfl -
  have e : runSegment (.settle now) f s = (s, f) := if_neg (Bool.not_eq_true _ ▸ h)
  rw [e]
  exact ⟨rfl, rfl⟩

theorem segLeads_settle {now : Ms} (h : settleDue now r = true) (hver : (vb && !r.pwrDown) = false) :
    SegLeads vb (.settle now) r { r with retuned := false } [] := by
  rintro s f rfl rfl
  simp only [runSegment, h, if_true, show verifies s = false from hver]
  exact ⟨rfl, rfl⟩

theorem segLeads_settle_verify {now : Ms} (h : settleDue now r = true) (hver : (vb && !r.pwrDown) = true) :
    SegLeads vb (.settle now) r { r with retuned := false } [.frame (.read Config.tuneAddr), .seg .compare] := by
  rintro s f rfl rfl
  simp only [runSegment, h, if_true, show verifies s = true from hver]
  exact ⟨rfl, rfl⟩

end

/-- A segment outputs nothing and takes no draw. -/
theorem runSegment_kept (g : Segment) (f : Flight) (s : State) :
    (runSegment g f s).1.trace = s.trace ∧ (runSegment g f s).1.env = s.env := by
  cases g with
  | change m now => simp only [runSegment]; split <;> exact ⟨rfl, rfl⟩
  | settle now =>
    simp only [runSegment]
    split
    · split <;> exact ⟨rfl, rfl⟩
    · exact ⟨rfl, rfl⟩
  | idle => exact ⟨rfl, rfl⟩
  | power d => exact ⟨rfl, rfl⟩
  | tune m now => exact ⟨rfl, rfl⟩
  | arm now => exact ⟨rfl, rfl⟩
  | compare => exact ⟨rfl, rfl⟩

section
variable {tr : List Obs} {vb : Bool} {r r' : Rxd} {rest ops : List BusOp} {fs : List BusFrame} {x : State × Flight}

theorem Views.act_seg {g : Segment} (h : Views tr vb r (.seg g :: rest) fs x) (hg : SegLeads vb g r r' ops) :
    Views tr vb r' (ops ++ rest) fs (act x) := by
  have e : act x = runSegment g { x.2 with todo := rest } x.1 := by simp only [act, h.todo]
  obtain ⟨hrx, htodo⟩ := hg x.1 { x.2 with todo := rest } h.rx h.verify
  obtain ⟨htrace, henv⟩ := runSegment_kept g { x.2 with todo := rest } x.1
  rw [e]
  exact ⟨hrx, htodo, htrace.trans h.trace, (congrArg _ henv).trans h.verify⟩

/-- A phase of a frame shows nothing, but the last one shows the frame sent. -/
theorem Views.act_frame {q : FrameReq} (h : Views tr vb r (.frame q :: rest) fs x) :
    Views tr vb r (.frame q :: rest) fs (act x) ∨ Views tr vb r rest (fs ++ [q.sent x.2.rb]) (act x) := by
  obtain ⟨hrx, hphase⟩ := act_phase h.todo
  have hverify : (act x).1.env.verifyReadback = vb := (acts_kept 1 x).2.2.2.2.trans h.verify
  rcases hphase with ⟨htodo, htrace⟩ | ⟨htodo, htrace⟩
  · exact .inl ⟨hrx.trans h.rx, htodo.trans h.todo, htrace.trans h.trace, hverify⟩
  · refine .inr ⟨hrx.trans h.rx, htodo, ?_, hverify⟩
    rw [htrace, h.trace, List.append_assoc, List.map_append]
    rfl

theorem acts_of_done (h : x.2.todo = []) (n : Nat) : acts n x = x := by
  induction n with
  | zero => rfl
  | succ n ih =>
    have hact : act x = x := by simp only [act, h]
    rw [acts, hact, ih]

end

/-- `P` holds of every view from the given one on. -/
def Throughout (tr : List Obs) (vb : Bool) (P : Rxd → List BusOp → List BusFrame → Prop) (r : Rxd) (ops : List BusOp)
    (fs : List BusFrame) : Prop :=
  ∀ x, Views tr vb r ops fs x → ∀ n, ∃ r' ops' fs', Views tr vb r' ops' fs' (acts n x) ∧ P r' ops' fs'

section
variable {tr : List Obs} {vb : Bool} {P Q : Rxd → List BusOp → List BusFrame → Prop} {r r' : Rxd} {rest ops : List BusOp}
  {fs : List BusFrame}

theorem Throughout.mono (h : Throughout tr vb P r ops fs) (hPQ : ∀ r ops fs, P r ops fs → Q r ops fs) :
    Throughout tr vb Q r ops fs := fun x hx n => by
  obtain ⟨r', ops', fs', hviews, hP⟩ := h x hx n
  exact ⟨r', ops', fs', hviews, hPQ _ _ _ hP⟩

theorem Throughout.done (h : P r [] fs) : Throughout tr vb P r [] fs := fun x hx n =>
  ⟨r, [], fs, by rw [acts_of_done hx.todo]; exact hx, h⟩

theorem Throughout.seg {g : Segment} (h : P r (.seg g :: rest) fs) (hg : SegLeads vb g r r' ops)
    (hrest : Throughout tr vb P r' (ops ++ rest) fs) : Throughout tr vb P r (.seg g :: rest) fs := fun x hx n => by
  cases n with
  | zero => exact ⟨_, _, _, hx, h⟩
  | succ n => exact hrest (act x) (hx.act_seg hg) n

theorem Throughout.frame {q : FrameReq} (h : P r (.frame q :: rest) fs)
    (hrest : ∀ rb, Throughout tr vb P r rest (fs ++ [q.sent rb])) : Throughout tr vb P r (.frame q :: rest) fs := by
  intro x hx n
  induction n generalizing x with
  | zero => exact ⟨_, _, _, hx, h⟩
  | succ n ih =>
    rcases hx.act_frame with hsame | hsent
    · exact ih (act x) hsame
    · exact hrest x.2.rb (act x) hsent n

end

/-! ### The paths of the commands -/

/-- The wake, power-down and tuning frames (R114, R120). -/
def wakeFrame : BusFrame := .write 0xF 0x00000
def downFrame : BusFrame := .write 0xA 0xFFFFF
def tuneFrame (f : Mhz) : BusFrame := .write 0x1 ((encodeFreq f).setWidth 20)

theorem downFrame_ne_wakeFrame : downFrame ≠ wakeFrame := by decide

theorem tuneFrame_ne_wakeFrame (f : Mhz) : tuneFrame f ≠ wakeFrame := fun h => by
  injection h with ha
  exact absurd ha (by decide)

/-- The registers on a tuning path that began at `r0`, in a view with the frames `fs` sent (R120, R134). -/
def Tunes (r0 : Rxd) (f : Mhz) (now : Ms) (r : Rxd) (ops : List BusOp) (fs : List BusFrame) : Prop :=
  r.curFreq = f ∧
  (r.pwrDown = r0.pwrDown ∨ (wakeFrame ∈ fs ∧ r.pwrDown = false)) ∧
  (tuneFrame f ∈ fs → r.pwrDown = false) ∧
  ((r.retuned = r0.retuned ∧ r.retuneTs = r0.retuneTs) ∨ (tuneFrame f ∈ fs ∧ r.retuned = true ∧ r.retuneTs = now)) ∧
  (ops = [] → tuneFrame f ∈ fs ∧ r.retuned = true ∧ r.retuneTs = now)

/-- The registers on a power-down path that began at `r0` (R120). -/
def PowersDown (r0 : Rxd) (r : Rxd) (ops : List BusOp) (fs : List BusFrame) : Prop :=
  r.curFreq = 1111 ∧ r.retuneTs = r0.retuneTs ∧
  (r.pwrDown = r0.pwrDown ∨ (downFrame ∈ fs ∧ r.pwrDown = true)) ∧ (ops = [] → downFrame ∈ fs ∧ r.pwrDown = true)

/-- The registers of `RX_INIT` that began at `r0` (R121). -/
def Inits (r0 : Rxd) (r : Rxd) (ops : List BusOp) (fs : List BusFrame) : Prop :=
  r.retuned = r0.retuned ∧ r.retuneTs = r0.retuneTs ∧
  (r.curFreq = r0.curFreq ∨ (wakeFrame ∈ fs ∧ r.curFreq = 1111)) ∧ (downFrame ∈ fs → r.curFreq = 1111) ∧
  (r.pwrDown = r0.pwrDown ∨ (wakeFrame ∈ fs ∧ r.pwrDown = false) ∨ (downFrame ∈ fs ∧ r.pwrDown = true)) ∧
  (ops = [] → downFrame ∈ fs ∧ r.pwrDown = true)

/-- The registers of an `RX_HFC` with no due change: settling may clear `RETUNED` (R125). -/
def Settles (r0 : Rxd) (r : Rxd) (_ops : List BusOp) (_fs : List BusFrame) : Prop :=
  r.curFreq = r0.curFreq ∧ r.pwrDown = r0.pwrDown ∧ r.retuneTs = r0.retuneTs ∧ (r.retuned = true → r0.retuned = true)

section
variable {tr : List Obs} {vb : Bool} {r : Rxd} {now : Ms} {rest : List BusOp}

/-- At the end of the tuning path the registers are `Rxd.tuned`. -/
theorem tunes_tuned {f : Mhz} (hf : f ≠ 1111) {fs : List BusFrame} (hsent : tuneFrame f ∈ fs)
    (hup : r.pwrDown = false ∨ wakeFrame ∈ fs) (ops : List BusOp) : Tunes r f now (r.tuned f now) ops fs := by
  have htuned : r.tuned f now = { curFreq := f, pwrDown := false, retuned := true, retuneTs := now } := if_neg hf
  rw [htuned]
  exact ⟨rfl, hup.imp Eq.symm fun h => ⟨h, rfl⟩, fun _ => rfl, .inr ⟨hsent, rfl, rfl⟩, fun _ => ⟨hsent, rfl, rfl⟩⟩

/-- The tuning path from the tuning frame on, to a module that is up. -/
theorem throughout_tuneFrame {f : Mhz} {fs : List BusFrame} (hf : f ≠ 1111) (hno : tuneFrame f ∉ fs)
    (hup : r.pwrDown = false ∨ wakeFrame ∈ fs)
    (hend : ∀ fs, tuneFrame f ∈ fs → (r.pwrDown = false ∨ wakeFrame ∈ fs) →
      Throughout tr vb (Tunes r f now) (r.tuned f now) rest fs) :
    Throughout tr vb (Tunes r f now) { r with curFreq := f, pwrDown := false }
      (.frame (.write Config.tuneAddr (tuneData f)) :: .seg (.arm now) :: rest) fs := by
  have htuned : r.tuned f now = { curFreq := f, pwrDown := false, retuned := true, retuneTs := now } := if_neg hf
  have hpwr : false = r.pwrDown ∨ wakeFrame ∈ fs ∧ false = false := hup.imp Eq.symm fun h => ⟨h, rfl⟩
  refine .frame ⟨rfl, hpwr, fun h => absurd h hno, .inl ⟨rfl, rfl⟩, nofun⟩ fun rb => ?_
  have hlast := hend (fs ++ [tuneFrame f]) (List.mem_append_right _ (List.mem_singleton.mpr rfl))
    (hup.imp_right (List.mem_append_left _))
  rw [htuned] at hlast
  exact .seg ⟨rfl, hpwr.imp_right fun h => ⟨List.mem_append_left _ h.1, rfl⟩, fun _ => rfl, .inl ⟨rfl, rfl⟩, nofun⟩
    (segLeads_arm now) hlast

/-- The tuning path, by way of the wake frame where the module is down; `rest` is what the command does after it. -/
theorem throughout_tunePath {f : Mhz} (hf : f ≠ 1111)
    (hend : ∀ fs, tuneFrame f ∈ fs → (r.pwrDown = false ∨ wakeFrame ∈ fs) →
      Throughout tr vb (Tunes r f now) (r.tuned f now) rest fs) :
    Throughout tr vb (Tunes r f now) { r with curFreq := f } (tunePath r.pwrDown f now ++ rest) [] := by
  have hne : ¬ f = Config.powerDownFreq := hf
  obtain ⟨cf, rt, ts, down⟩ := r
  cases down with
  | false =>
    rw [tunePath, if_neg hne]
    exact throughout_tuneFrame (r := ⟨cf, rt, ts, false⟩) hf List.not_mem_nil (.inl rfl) hend
  | true =>
    rw [tunePath, if_neg hne]
    refine .frame ⟨rfl, .inl rfl, fun h => absurd h List.not_mem_nil, .inl ⟨rfl, rfl⟩, nofun⟩ fun rb => ?_
    have hno : tuneFrame f ∉ [wakeFrame] := fun h => tuneFrame_ne_wakeFrame f (List.mem_singleton.mp h)
    refine .seg ⟨rfl, .inl rfl, fun h => absurd h hno, .inl ⟨rfl, rfl⟩, nofun⟩ (segLeads_power false) ?_
    exact throughout_tuneFrame (r := ⟨cf, rt, ts, true⟩) hf hno (.inr (List.mem_singleton.mpr rfl)) hend

/-- The power-down path up to its end. -/
theorem throughout_powerDownPath {P : Rxd → List BusOp → List BusFrame → Prop}
    (hbefore : ∀ op ops fs, P { r with curFreq := 1111 } (op :: ops) fs)
    (hend : Throughout tr vb P { r with curFreq := 1111, pwrDown := true } rest [downFrame]) (d : Bool) :
    Throughout tr vb P { r with curFreq := 1111 } (tunePath d 1111 now ++ rest) [] :=
  .frame (hbefore _ _ _) fun _ => .seg (hbefore _ _ _) (segLeads_power true) hend

end

/-- `RX_HFC` of the sentinel, due: the power-down path, and then the settle step without a read-back (R125). -/
theorem throughout_hfcPowerDown {tr : List Obs} {vb : Bool} {r : Rxd} {now : Ms} (d : Bool) :
    Throughout tr vb (fun r' ops fs => PowersDown r r' ops fs ∧ (r'.retuned = true → r.retuned = true))
      { r with curFreq := 1111 } (tunePath d 1111 now ++ [.seg (.settle now)]) [] := by
  have hsent : downFrame ∈ [downFrame] := List.mem_singleton.mpr rfl
  refine throughout_powerDownPath (fun _ _ _ => ⟨⟨rfl, rfl, .inl rfl, nofun⟩, id⟩) ?_ d
  cases hdue : settleDue now r with
  | false =>
    exact .seg ⟨⟨rfl, rfl, .inr ⟨hsent, rfl⟩, nofun⟩, id⟩ (segLeads_settle_not_due hdue)
      (.done ⟨⟨rfl, rfl, .inr ⟨hsent, rfl⟩, fun _ => ⟨hsent, rfl⟩⟩, id⟩)
  | true =>
    exact .seg ⟨⟨rfl, rfl, .inr ⟨hsent, rfl⟩, nofun⟩, id⟩ (segLeads_settle hdue (Bool.and_false _))
      (.done ⟨⟨rfl, rfl, .inr ⟨hsent, rfl⟩, fun _ => ⟨hsent, rfl⟩⟩, nofun⟩)

/-- `RX_INIT` after S0 (R121). -/
theorem throughout_init {tr : List Obs} {vb : Bool} {r : Rxd} :
    Throughout tr vb (Inits r) r
      (frameOps Config.wakeSeq ++ [.seg (.power false), .seg (.tune Config.powerDownFreq 0)]) [] := by
  have hwake : wakeFrame ∈ [wakeFrame] := List.mem_singleton.mpr rfl
  have hno : downFrame ∉ [wakeFrame] := fun h => downFrame_ne_wakeFrame (List.mem_singleton.mp h)
  have hwake' : wakeFrame ∈ [wakeFrame, downFrame] := List.mem_cons_self
  have hdown' : downFrame ∈ [wakeFrame, downFrame] := List.mem_cons_of_mem _ (List.mem_singleton.mpr rfl)
  refine .frame ⟨rfl, rfl, .inl rfl, fun h => absurd h List.not_mem_nil, .inl rfl, nofun⟩ fun _ => ?_
  refine .seg ⟨rfl, rfl, .inl rfl, fun h => absurd h hno, .inl rfl, nofun⟩ (segLeads_power false) ?_
  refine .seg ⟨rfl, rfl, .inl rfl, fun h => absurd h hno, .inr (.inl ⟨hwake, rfl⟩), nofun⟩
    (segLeads_tune Config.powerDownFreq 0) ?_
  refine .frame ⟨rfl, rfl, .inr ⟨hwake, rfl⟩, fun _ => rfl, .inr (.inl ⟨hwake, rfl⟩), nofun⟩ fun _ => ?_
  refine .seg ⟨rfl, rfl, .inr ⟨hwake', rfl⟩, fun _ => rfl, .inr (.inl ⟨hwake', rfl⟩), nofun⟩ (segLeads_power true) ?_
  exact .done ⟨rfl, rfl, .inr ⟨hwake', rfl⟩, fun _ => rfl, .inr (.inr ⟨hdown', rfl⟩), fun _ => ⟨hdown', rfl⟩⟩

/-- The settle step of an `RX_HFC` with no due change, with and without the read-back (R125, R126). -/
theorem throughout_settle {tr : List Obs} {vb : Bool} {r : Rxd} {now : Ms} :
    Throughout tr vb (Settles r) r [.seg (.settle now)] [] := by
  have hkept : ∀ ops fs, Settles r r ops fs := fun _ _ => ⟨rfl, rfl, rfl, id⟩
  have hcleared : ∀ ops fs, Settles r { r with retuned := false } ops fs := fun _ _ => ⟨rfl, rfl, rfl, nofun⟩
  cases hdue : settleDue now r with
  | false => exact .seg (hkept _ _) (segLeads_settle_not_due hdue) (.done (hkept _ _))
  | true =>
    cases hver : vb && !r.pwrDown with
    | false => exact .seg (hkept _ _) (segLeads_settle hdue hver) (.done (hcleared _ _))
    | true =>
      exact .seg (hkept _ _) (segLeads_settle_verify hdue hver) (.frame (hcleared _ _) fun _ =>
        .seg (hcleared _ _) segLeads_compare (.done (hcleared _ _)))

/-! ### Turns and views -/

section
variable {p : Port} {r : List Turn} {x : State × Flight}

/-- A port with nothing in flight and nothing presented lets its turns pass (R72). -/
theorem step_answered (hup : x.1.faulted = none) :
    step (State.answered p [] (.atom p :: r) x) = .next (State.answered p [] r x) := by
  have hturn : (State.answered p [] (.atom p :: r) x).env.sched = turn false p :: r := State.placed_sched ..
  have hup' : (State.answered p [] (.atom p :: r) x).faulted = none := (State.placed_faulted ..).trans hup
  have htaken : (State.answered p [] (.atom p :: r) x).setSched r = State.answered p [] r x := by cases p <;> rfl
  have hport : (State.answered p [] r x).port p = { queue := [], busy := .idle } := by simp [State.answered]
  rw [step_of_turn hup' hturn, htaken]
  simp only [runPort, hport]

theorem run_answered (hup : x.1.faulted = none) (n : Nat) :
    Host.Core.run Sys2Proof.core n (State.answered p [] (List.replicate n (.atom p) ++ r) x) =
      .next (State.answered p [] r x) := by
  induction n with
  | zero => rfl
  | succ n ih => exact (run_of_step (step_answered hup) n).trans ih

/-- After `n` turns the flight has come `n` actions far, or it has answered after fewer. -/
theorem run_turns (hcur : x.1.cur = p) (hup : x.1.faulted = none) (n : Nat) :
    Host.Core.run Sys2Proof.core n (State.flying p [] (List.replicate n (.atom p) ++ r) x) =
      .next (State.flying p [] r (acts n x)) ∨
    ∃ m, m < n ∧ (acts m x).2.todo = [] ∧
      Host.Core.run Sys2Proof.core n (State.flying p [] (List.replicate n (.atom p) ++ r) x) =
        .next (State.answered p [] r (acts m x)) := by
  induction n generalizing x with
  | zero => exact .inl rfl
  | succ n ih =>
    by_cases h : x.2.todo = []
    · exact .inr ⟨0, Nat.succ_pos n, h, (run_of_step (step_flying_done (f := x.2) hcur hup h) n).trans (run_answered hup n)⟩
    · obtain ⟨_, hcur', hup', _⟩ := acts_kept 1 x
      have hstep := run_of_step (step_flying_act (f := x.2) (q := []) (r := List.replicate n (.atom p) ++ r) hcur hup h) n
      rcases ih (x := act x) (hcur'.trans hcur) (hup'.trans hup) with hrun | ⟨m, hm, hdone, hrun⟩
      · exact .inl (hstep.trans hrun)
      · exact .inr ⟨m + 1, Nat.succ_lt_succ hm, hdone, hstep.trans hrun⟩

end

/-- After one turn or more of a port that had one bus command to accept, the block shows a view of the command's path: its
registers, the frames sent, and a response only with nothing left. -/
theorem run_shows {s : State} {p : Port} {w : Cmd} {i : Instr} {ops ops1 : List BusOp} {r1 : Rxd}
    {P : Rxd → List BusOp → List BusFrame → Prop} (hup : s.faulted = none)
    (hidle : (s.port p).busy = .idle) (hother : ∀ f, (s.port p.other).busy ≠ .running f) (hqueue : (s.port p).queue = [w])
    (hdecode : decode w = .ok i) (hops : busProgram i = some ops)
    (hfirst : ∀ x, Views s.trace s.env.verifyReadback s.rx ops [] x → Views s.trace s.env.verifyReadback r1 ops1 [] (act x))
    (hP : Throughout s.trace s.env.verifyReadback P r1 ops1 []) (rest : List Turn) {n : Nat} (hn : 1 ≤ n) :
    ∃ t out ops' fs, Host.Core.run Sys2Proof.core n (s.setSched (List.replicate n (.atom p) ++ rest)) = .next t ∧
      t.trace = s.trace ++ out ∧ (n = 1 → out = []) ∧ P t.rx ops' fs ∧ (∀ b, Obs.frame b ∈ out ↔ b ∈ fs) ∧
      ((∃ rsp, Obs.rsp p rsp ∈ out) → ops' = []) := by
  obtain ⟨k, rfl⟩ : ∃ k, n = k + 1 := ⟨n - 1, by omega⟩
  obtain ⟨x1, hx1⟩ : ∃ x1, act (accepted s p [] rest, Flight.start ops) = x1 := ⟨_, rfl⟩
  have hview : Views s.trace s.env.verifyReadback r1 ops1 [] x1 := by
    rw [← hx1]
    exact hfirst _ ⟨by simp [accepted], rfl, by simp [accepted], by simp [accepted]⟩
  have hcur : x1.1.cur = p := by
    rw [← hx1]; exact (acts_kept 1 _).2.1.trans accepted_cur
  have hup1 : x1.1.faulted = none := by
    rw [← hx1]; exact (acts_kept 1 _).2.2.1.trans (by simpa [accepted] using hup)
  have hstep := step_first_action (r := List.replicate k (.atom p) ++ rest) hup hidle hother hqueue hdecode hops
    (busProgram_ne_nil hops) rest
  rw [hx1] at hstep
  rcases run_turns (r := rest) hcur hup1 k with hrun | ⟨m, hm, hdone, hrun⟩
  · obtain ⟨r', ops', fs, hshown, hPn⟩ := hP x1 hview k
    refine ⟨_, fs.map Obs.frame, ops', fs, (run_of_step hstep k).trans hrun, ?_, fun hk => ?_, ?_, by simp, by simp⟩
    · rw [State.flying, State.placed_trace]; exact hshown.trace
    · have hk0 : k = 0 := by omega
      subst hk0
      exact List.append_cancel_left (hshown.trace.symm.trans hview.trace)
    · rw [State.flying, State.placed_rx, hshown.rx]; exact hPn
  · obtain ⟨r', ops', fs, hshown, hPn⟩ := hP x1 hview m
    refine ⟨_, fs.map Obs.frame ++ [.rsp p ⟨.ok, (acts m x1).2.rep⟩], ops', fs, (run_of_step hstep k).trans hrun, ?_,
      by omega, ?_, by simp, fun _ => hshown.todo.symm.trans hdone⟩
    · have hcur' : (acts m x1).1.cur = p := (acts_kept m x1).2.1.trans hcur
      rw [State.answered, State.respond_eq, State.emit_trace, State.placed_trace, State.placed_cur, hcur', hshown.trace,
        List.append_assoc]
    · rw [State.answered, State.respond_eq, State.emit_rx, State.placed_rx, hshown.rx]; exact hPn

/-! ### The statement -/

/-- The registers of the bus command `i` that began at `r0`, on the path its operands choose. -/
def Follows (r0 : Rxd) (i : Instr) (r : Rxd) (ops : List BusOp) (fs : List BusFrame) : Prop :=
  match i with
  | .rxSetfreq f now =>
    (f ≠ 1111 → Tunes r0 f now r ops fs) ∧ (f = 1111 → PowersDown r0 r ops fs ∧ r.retuned = r0.retuned)
  | .rxHfc f now =>
    (retuneDue f now r0 = true → (f ≠ 1111 → Tunes r0 f now r ops fs) ∧
      (f = 1111 → PowersDown r0 r ops fs ∧ (r.retuned = true → r0.retuned = true))) ∧
    (retuneDue f now r0 = false → Settles r0 r ops fs)
  | .rxInit => Inits r0 r ops fs
  | _ => True

/-- The first action of a bus command leads to a view from which its registers follow its frames. -/
theorem follows_from_first {i : Instr} {ops : List BusOp} (hops : busProgram i = some ops) (tr : List Obs) (vb : Bool)
    (r : Rxd) :
    ∃ r1 ops1, (∀ x, Views tr vb r ops [] x → Views tr vb r1 ops1 [] (act x)) ∧
      Throughout tr vb (Follows r i) r1 ops1 [] := by
  cases i with
  | rxInit =>
    cases hops
    exact ⟨_, _, fun x hx => hx.act_seg segLeads_idle, throughout_init⟩
  | rxSetfreq f now =>
    obtain ⟨_, hops⟩ := Option.ite_none_right_eq_some.mp hops
    cases hops
    refine ⟨_, _, fun x hx => hx.act_seg (segLeads_tune f now), ?_⟩
    by_cases hf : f = 1111
    · subst hf
      have hpath : Throughout tr vb (fun r' ops fs => PowersDown r r' ops fs ∧ r'.retuned = r.retuned)
          { r with curFreq := 1111 } (tunePath r.pwrDown 1111 now ++ []) [] :=
        throughout_powerDownPath (fun _ _ _ => ⟨⟨rfl, rfl, .inl rfl, nofun⟩, rfl⟩)
          (.done ⟨⟨rfl, rfl, .inr ⟨List.mem_singleton.mpr rfl, rfl⟩, fun _ => ⟨List.mem_singleton.mpr rfl, rfl⟩⟩, rfl⟩) _
      exact hpath.mono fun _ _ _ h => ⟨fun hne => absurd rfl hne, fun _ => h⟩
    · have hpath := throughout_tunePath (tr := tr) (vb := vb) (r := r) (now := now) (rest := []) hf
        fun fs hsent hup => .done (tunes_tuned hf hsent hup [])
      exact hpath.mono fun _ _ _ h => ⟨fun _ => h, fun he => absurd he hf⟩
  | rxHfc f now =>
    obtain ⟨_, hops⟩ := Option.ite_none_right_eq_some.mp hops
    cases hops
    cases hdue : retuneDue f now r with
    | false =>
      refine ⟨_, _, fun x hx => hx.act_seg (segLeads_change_not_due hdue), throughout_settle.mono fun _ _ _ h => ?_⟩
      exact ⟨fun hd => absurd (hd.symm.trans hdue) (by decide), fun _ => h⟩
    | true =>
      refine ⟨_, _, fun x hx => hx.act_seg (segLeads_change hdue), ?_⟩
      by_cases hf : f = 1111
      · subst hf
        have hpath := throughout_hfcPowerDown (tr := tr) (vb := vb) (r := r) (now := now) r.pwrDown
        exact hpath.mono fun _ _ _ h => ⟨fun _ => ⟨fun hne => absurd rfl hne, fun _ => h⟩,
          fun hd => absurd (hd.symm.trans hdue) (by decide)⟩
      · have hfresh : settleDue now (r.tuned f now) = false :=
          settleDue_fresh now _ (by rw [Rxd.tuned, if_neg (show ¬ f = Config.powerDownFreq from hf)])
        have hpath := throughout_tunePath (tr := tr) (vb := vb) (r := r) (now := now) (rest := [.seg (.settle now)]) hf
          fun fs hsent hup => .seg (tunes_tuned hf hsent hup _) (segLeads_settle_not_due hfresh)
            (.done (tunes_tuned hf hsent hup []))
        exact hpath.mono fun _ _ _ h => ⟨fun _ => ⟨fun _ => h, fun he => absurd he hf⟩,
          fun hd => absurd (hd.symm.trans hdue) (by decide)⟩
  | _ => cases hops

/-- Settles O59: the run shows a view of the command's path, and the path's registers follow its frames. -/
theorem registersFollowTheirFrames : Obligations.RegistersFollowTheirFrames := by
  intro s p w rest i n hup hseq hidle hother hqueue hdecode hbus hwf hn
  obtain ⟨ops, hops⟩ := (exists_busProgram_iff i).mpr ⟨hbus, hwf⟩
  obtain ⟨r1, ops1, hfirst, hfollows⟩ := follows_from_first hops s.trace s.env.verifyReadback s.rx
  obtain ⟨t, out, left, fs, hrun, htrace, hone, hview, hframes, hanswered⟩ :=
    run_shows hup hidle hother hqueue hdecode hops hfirst hfollows rest hn
  refine ⟨t, out, hrun, htrace, hone, ?_⟩
  intro wake down tuning answered tunes powersDown
  have hwake : wake ↔ wakeFrame ∈ fs := hframes _
  have hdown : down ↔ downFrame ∈ fs := hframes _
  have htuning : ∀ f, tuning f ↔ tuneFrame f ∈ fs := fun f => hframes _
  have htunes : ∀ f now, Tunes s.rx f now t.rx left fs → tunes f now := by
    rintro f now ⟨hfreq, hpwr, hup, harmed, hend⟩
    exact ⟨hfreq, hpwr.imp_right fun h => ⟨hwake.mpr h.1, h.2⟩, fun h => hup ((htuning f).mp h),
      harmed.imp_right fun h => ⟨(htuning f).mpr h.1, h.2⟩,
      fun ha => (hend (hanswered ha)).imp_left (htuning f).mpr⟩
  have hpowersDown : PowersDown s.rx t.rx left fs → powersDown := by
    rintro ⟨hfreq, hts, hpwr, hend⟩
    exact ⟨hfreq, hts, hpwr.imp_right fun h => ⟨hdown.mpr h.1, h.2⟩, fun ha => (hend (hanswered ha)).imp_left hdown.mpr⟩
  refine ⟨?_, ?_, ?_, ?_, ?_⟩
  · rintro f now rfl hf
    exact htunes f now (hview.1 hf)
  · rintro f now rfl hf
    exact (hview.2 hf).imp_left hpowersDown
  · rintro f now rfl hchange hquiet
    obtain ⟨htune, hsentinel⟩ := hview.1 (retuneDue_iff.mpr ⟨hchange, hquiet⟩)
    exact ⟨fun hf => htunes f now (htune hf), fun hf => (hsentinel hf).imp_left hpowersDown⟩
  · rintro f now rfl hnot
    exact hview.2 (not_retuneDue_iff.mpr hnot)
  · rintro rfl
    obtain ⟨hret, hts, hfreq, hsent, hpwr, hend⟩ := hview
    exact ⟨hret, hts, hfreq.imp_right fun h => ⟨hwake.mpr h.1, h.2⟩, fun h => hsent (hdown.mp h),
      hpwr.imp_right (Or.imp (fun h => ⟨hwake.mpr h.1, h.2⟩) fun h => ⟨hdown.mpr h.1, h.2⟩),
      fun ha => (hend (hanswered ha)).imp_left hdown.mpr⟩

end Sys2Proof.Machine
end
